-- ==== Sys2Proof/Word.lean ====
section
/-! DEFINITION. The number types of the block, its two channels and its five agents.
Numbers are unsigned throughout (00_scope.md R9). -/

namespace Sys2Proof

/-- `u8`, one storage byte (00_scope.md R9). -/
abbrev Byte := BitVec 8

/-- `u16`: the index counters (`IDXW = 16`), capacities and response values (00_scope.md R5). -/
abbrev Index := BitVec 16

/-- `u32`: command and response words, error counters (30_encoding.md R90, 00_scope.md R5). -/
abbrev Word := BitVec 32

/-- The two channels (00_scope.md R2). -/
inductive Chan
  | rx
  | tx
deriving DecidableEq, Repr

/-- The five agents, one command port each (00_scope.md R7). -/
inductive Agent
  | txt
  | rxt
  | isr
  | tmr
  | host
deriving DecidableEq, Repr

/-- One value for each channel. -/
structure PerChan (α : Type) where
  rx : α
  tx : α
deriving DecidableEq, Repr

namespace PerChan

def get {α : Type} (p : PerChan α) : Chan → α
  | .rx => p.rx
  | .tx => p.tx

def set {α : Type} (p : PerChan α) (ch : Chan) (v : α) : PerChan α :=
  match ch with
  | .rx => { p with rx := v }
  | .tx => { p with tx := v }

end PerChan

/-- One value for each agent. -/
structure PerAgent (α : Type) where
  txt : α
  rxt : α
  isr : α
  tmr : α
  host : α
deriving DecidableEq, Repr

namespace PerAgent

def get {α : Type} (p : PerAgent α) : Agent → α
  | .txt => p.txt
  | .rxt => p.rxt
  | .isr => p.isr
  | .tmr => p.tmr
  | .host => p.host

def set {α : Type} (p : PerAgent α) (a : Agent) (v : α) : PerAgent α :=
  match a with
  | .txt => { p with txt := v }
  | .rxt => { p with rxt := v }
  | .isr => { p with isr := v }
  | .tmr => { p with tmr := v }
  | .host => { p with host := v }

end PerAgent

end Sys2Proof
end

