-- ==== Sys2Proof/Config.lean ====
section
/-! DEFINITION. The parameters of one instance of the block (00_scope.md R5) and the free values, which
nothing in the spec fixes: an `opaque` constant has no body that a proof could use. -/

namespace Sys2Proof.Config

/-- Smallest legal capacity (00_scope.md R5, R6). -/
def capMin : Nat := 2

/-- Largest legal capacity (00_scope.md R5, R6). -/
def capMax : Nat := 16384

/-- `TIMER_MS`, carried for documentation: no rule reads it (70_reset_and_hazards.md R348). -/
def timerMs : Nat := 1

/-- The byte a storage slot holds that no `PUSH` has written (10_state.md R40: "each byte may hold any
value, and a model must not assume zero"). FREE VALUE, log 7. -/
opaque storageByte : Chan → Nat → Byte

/-- A byte of the caller's data stream that the stream does not hold. FREE VALUE, log 8. -/
opaque callerByte : Nat → Byte

/-- What the device answers where the input queue holds no answer. FREE VALUES, log 6
(10_state.md R34, 60_exceptions.md R298). -/
opaque devPoll : Nat → Bool
opaque devRxReady : Nat → Bool
opaque devTxReady : Nat → Bool
opaque devReadByte : Nat → Option Byte
opaque devWriteOk : Nat → Bool
opaque devOverrun : Nat → Bool
opaque devFraming : Nat → Bool

/-- The code a halted port answers with while `FAULT` is none: unreachable, so the spec names no value
(30_encoding.md R96). FREE VALUE, log 9. -/
opaque haltedCode : Index

end Sys2Proof.Config
end

