-- ==== Sys2Proof/Syntax.lean ====
section
/-! DEFINITION. The 28 operations of the opcode map (30_encoding.md R93), one constructor per row. -/

namespace Sys2Proof

/-- One operation with its operands (30_encoding.md R92, R93). `len` is `LEN`, a count; the formats F and L
fix their channel, so those constructors carry none. -/
inductive Instr
  | push (ch : Chan) (b : Byte)
  | pop (ch : Chan)
  | peek (ch : Chan)
  | used (ch : Chan)
  | isFull (ch : Chan)
  | isEmpty (ch : Chan)
  | cap (ch : Chan)
  | snap (ch : Chan)
  | fcTxt
  | fcTxi
  | fcRxt
  | fcRxi
  | isr
  | errChk
  | rxBurst
  | txBurst
  | wrnb (len : Nat)
  | write (len : Nat)
  | rdnb (len : Nat)
  | read (len : Nat)
  | raise (ch : Chan)
  | wait (ch : Chan)
  | wreset (ch : Chan)
  | tarm
  | tstop
  | tfire
  | construct (ch : Chan) (capv : Index)
  | setup
deriving DecidableEq, Repr

/-- The mnemonic of the opcode map (00_scope.md R12, 30_encoding.md R93). -/
def Instr.mnemonic : Instr → String
  | .push _ _ => "PUSH"
  | .pop _ => "POP"
  | .peek _ => "PEEK"
  | .used _ => "USED"
  | .isFull _ => "ISFULL"
  | .isEmpty _ => "ISEMPTY"
  | .cap _ => "CAP"
  | .snap _ => "SNAP"
  | .fcTxt => "FC.TXT"
  | .fcTxi => "FC.TXI"
  | .fcRxt => "FC.RXT"
  | .fcRxi => "FC.RXI"
  | .isr => "ISR"
  | .errChk => "ERRCHK"
  | .rxBurst => "RXBURST"
  | .txBurst => "TXBURST"
  | .wrnb _ => "WRNB"
  | .write _ => "WRITE"
  | .rdnb _ => "RDNB"
  | .read _ => "READ"
  | .raise _ => "RAISE"
  | .wait _ => "WAIT"
  | .wreset _ => "WRESET"
  | .tarm => "TARM"
  | .tstop => "TSTOP"
  | .tfire => "TFIRE"
  | .construct _ _ => "CONSTRUCT"
  | .setup => "SETUP"

/-- The source names that are aliases of one mnemonic each (30_encoding.md R101). -/
def sourceAliases : List (String × String) :=
  [("push", "PUSH"), ("pop", "POP"), ("peek", "PEEK"), ("usedCount", "USED"), ("isFull", "ISFULL"),
   ("isEmpty", "ISEMPTY"), ("capacity", "CAP"), ("writeNonBlocking", "WRNB")] ++
  [("write", "WRITE"), ("readNonBlocking", "RDNB"), ("read", "READ"), ("raise", "RAISE"),
   ("waitForever", "WAIT"), ("reset", "WRESET"), ("startOneShot", "TARM"), ("stop", "TSTOP")]

end Sys2Proof
end

