-- ==== Sys2Proof/WellFormed.lean ====
section
/-! DEFINITION. Which terms of `Instr` are operations of the block: `LEN` is a `u16` (00_scope.md R5,
30_encoding.md R92). Every other operand has its width in its type. -/

namespace Sys2Proof

/-- `LEN` fits its 16-bit field: 0 to 65535. -/
def lenFits (len : Nat) : Bool := len < 65536

/-- The operands of an operation fit the fields of its format (30_encoding.md R92). -/
def Instr.wellFormed : Instr → Bool
  | .push _ _ => true
  | .pop _ => true
  | .peek _ => true
  | .used _ => true
  | .isFull _ => true
  | .isEmpty _ => true
  | .cap _ => true
  | .snap _ => true
  | .fcTxt => true
  | .fcTxi => true
  | .fcRxt => true
  | .fcRxi => true
  | .isr => true
  | .errChk => true
  | .rxBurst => true
  | .txBurst => true
  | .wrnb len => lenFits len
  | .write len => lenFits len
  | .rdnb len => lenFits len
  | .read len => lenFits len
  | .raise _ => true
  | .wait _ => true
  | .wreset _ => true
  | .tarm => true
  | .tstop => true
  | .tfire => true
  | .construct _ _ => true
  | .setup => true

end Sys2Proof
end

