-- ==== Sys2Proof/Decode.lean ====
section
/-! DEFINITION. The command word (30_encoding.md R90 to R94), its decoder, its encoder, and the port table
(R95). Every number here is 30_encoding.md's. -/

namespace Sys2Proof

/-! ## Fields of the command word (R91) -/

def opcField (w : Word) : BitVec 8 := w.extractLsb' 24 8
def z1Field (w : Word) : BitVec 7 := w.extractLsb' 17 7
def chField (w : Word) : BitVec 1 := w.extractLsb' 16 1
def argField (w : Word) : BitVec 16 := w.extractLsb' 0 16
def argHighField (w : Word) : BitVec 8 := w.extractLsb' 8 8
def byteField (w : Word) : Byte := w.extractLsb' 0 8

/-- `CH`: 0 = RX, 1 = TX. -/
def chanOfBit (b : BitVec 1) : Chan := if b = 0 then .rx else .tx

def bitOfChan : Chan → BitVec 1
  | .rx => 0
  | .tx => 1

/-- Why a word is no operation: the response to each is `ILLEGAL` (R96). -/
inductive DecodeError
  /-- `OPC` is one of the reserved values of R96. -/
  | reservedOpcode
  /-- a bit of `Z1` is set. -/
  | mustBeZeroSet
  /-- `CH` is not the value a format F or L operation fixes. -/
  | wrongChannel
  /-- a must-be-zero part of `ARG` is not zero. -/
  | argNotZero
deriving DecidableEq, Repr

/-! ## Formats (R92) -/

/-- Format B: channel free, `ARG[15:8]` zero, `BYTE` in `ARG[7:0]`. -/
def formatB (w : Word) (f : Chan → Byte → Instr) : Except DecodeError Instr :=
  if z1Field w ≠ 0 then .error .mustBeZeroSet
  else if argHighField w ≠ 0 then .error .argNotZero
  else .ok (f (chanOfBit (chField w)) (byteField w))

/-- Format C: channel free, `ARG` zero. -/
def formatC (w : Word) (f : Chan → Instr) : Except DecodeError Instr :=
  if z1Field w ≠ 0 then .error .mustBeZeroSet
  else if argField w ≠ 0 then .error .argNotZero
  else .ok (f (chanOfBit (chField w)))

/-- Format F: channel fixed, `ARG` zero. -/
def formatF (w : Word) (ch : Chan) (i : Instr) : Except DecodeError Instr :=
  if z1Field w ≠ 0 then .error .mustBeZeroSet
  else if chField w ≠ bitOfChan ch then .error .wrongChannel
  else if argField w ≠ 0 then .error .argNotZero
  else .ok i

/-- Format L: channel fixed, `LEN` in `ARG`. -/
def formatL (w : Word) (ch : Chan) (f : Nat → Instr) : Except DecodeError Instr :=
  if z1Field w ≠ 0 then .error .mustBeZeroSet
  else if chField w ≠ bitOfChan ch then .error .wrongChannel
  else .ok (f (argField w).toNat)

/-- Format K: channel free, `CAPV` in `ARG`. -/
def formatK (w : Word) (f : Chan → Index → Instr) : Except DecodeError Instr :=
  if z1Field w ≠ 0 then .error .mustBeZeroSet
  else .ok (f (chanOfBit (chField w)) (argField w))

/-- The decoder: total, one case per row of the opcode map (R93), every other `OPC` reserved (R96). -/
def decode (w : Word) : Except DecodeError Instr :=
  match (opcField w).toNat with
  | 0x00 => formatB w .push
  | 0x01 => formatC w .pop
  | 0x02 => formatC w .peek
  | 0x03 => formatC w .used
  | 0x04 => formatC w .isFull
  | 0x05 => formatC w .isEmpty
  | 0x06 => formatC w .cap
  | 0x10 => formatC w .snap
  | 0x11 => formatF w .tx .fcTxt
  | 0x12 => formatF w .tx .fcTxi
  | 0x13 => formatF w .rx .fcRxt
  | 0x14 => formatF w .rx .fcRxi
  | 0x20 => formatF w .rx .isr
  | 0x21 => formatF w .rx .errChk
  | 0x22 => formatF w .rx .rxBurst
  | 0x23 => formatF w .tx .txBurst
  | 0x30 => formatL w .tx .wrnb
  | 0x31 => formatL w .tx .write
  | 0x32 => formatL w .rx .rdnb
  | 0x33 => formatL w .rx .read
  | 0x40 => formatC w .raise
  | 0x41 => formatC w .wait
  | 0x42 => formatC w .wreset
  | 0x50 => formatF w .rx .tarm
  | 0x51 => formatF w .rx .tstop
  | 0x52 => formatF w .rx .tfire
  | 0x60 => formatK w .construct
  | 0x61 => formatF w .rx .setup
  | _ => .error .reservedOpcode

/-- The decoder on a word numbered as spec/opcode_table.json numbers it. A command is one 32-bit number
(R90, R99), so the bits above `nbits` are zero and there are no further words. -/
def decodeTableWord (nbits w : Nat) : Option Instr :=
  match decode (BitVec.ofNat 32 (w % 2 ^ nbits)) with
  | .ok i => some i
  | .error _ => none

/-! ## The encoder (R91 to R93) -/

/-- The word with these fields, `Z1` zero. -/
def commandWord (opc : BitVec 8) (ch : Chan) (arg : BitVec 16) : Word :=
  opc ++ (0 : BitVec 7) ++ bitOfChan ch ++ arg

/-- The command word of an operation. -/
def encode : Instr → Word
  | .push ch b => commandWord 0x00 ch (b.setWidth 16)
  | .pop ch => commandWord 0x01 ch 0
  | .peek ch => commandWord 0x02 ch 0
  | .used ch => commandWord 0x03 ch 0
  | .isFull ch => commandWord 0x04 ch 0
  | .isEmpty ch => commandWord 0x05 ch 0
  | .cap ch => commandWord 0x06 ch 0
  | .snap ch => commandWord 0x10 ch 0
  | .fcTxt => commandWord 0x11 .tx 0
  | .fcTxi => commandWord 0x12 .tx 0
  | .fcRxt => commandWord 0x13 .rx 0
  | .fcRxi => commandWord 0x14 .rx 0
  | .isr => commandWord 0x20 .rx 0
  | .errChk => commandWord 0x21 .rx 0
  | .rxBurst => commandWord 0x22 .rx 0
  | .txBurst => commandWord 0x23 .tx 0
  | .wrnb len => commandWord 0x30 .tx (BitVec.ofNat 16 len)
  | .write len => commandWord 0x31 .tx (BitVec.ofNat 16 len)
  | .rdnb len => commandWord 0x32 .rx (BitVec.ofNat 16 len)
  | .read len => commandWord 0x33 .rx (BitVec.ofNat 16 len)
  | .raise ch => commandWord 0x40 ch 0
  | .wait ch => commandWord 0x41 ch 0
  | .wreset ch => commandWord 0x42 ch 0
  | .tarm => commandWord 0x50 .rx 0
  | .tstop => commandWord 0x51 .rx 0
  | .tfire => commandWord 0x52 .rx 0
  | .construct ch capv => commandWord 0x60 ch capv
  | .setup => commandWord 0x61 .rx 0

/-! ## The match and mask table (R94) -/

/-- One row of the opcode map: a word `w` selects it when `w &&& mask = pattern`. -/
structure OpcodeRow where
  mnemonic : String
  mask : Word
  pattern : Word
deriving DecidableEq, Repr

/-- The 28 rows with the masks of their formats (R94). -/
def opcodeRows : List OpcodeRow :=
  [⟨"PUSH", 0xFFFEFF00, 0x00000000⟩, ⟨"POP", 0xFFFEFFFF, 0x01000000⟩, ⟨"PEEK", 0xFFFEFFFF, 0x02000000⟩,
   ⟨"USED", 0xFFFEFFFF, 0x03000000⟩, ⟨"ISFULL", 0xFFFEFFFF, 0x04000000⟩,
   ⟨"ISEMPTY", 0xFFFEFFFF, 0x05000000⟩, ⟨"CAP", 0xFFFEFFFF, 0x06000000⟩] ++
  [⟨"SNAP", 0xFFFEFFFF, 0x10000000⟩, ⟨"FC.TXT", 0xFFFFFFFF, 0x11010000⟩,
   ⟨"FC.TXI", 0xFFFFFFFF, 0x12010000⟩, ⟨"FC.RXT", 0xFFFFFFFF, 0x13000000⟩,
   ⟨"FC.RXI", 0xFFFFFFFF, 0x14000000⟩, ⟨"ISR", 0xFFFFFFFF, 0x20000000⟩,
   ⟨"ERRCHK", 0xFFFFFFFF, 0x21000000⟩, ⟨"RXBURST", 0xFFFFFFFF, 0x22000000⟩] ++
  [⟨"TXBURST", 0xFFFFFFFF, 0x23010000⟩, ⟨"WRNB", 0xFFFF0000, 0x30010000⟩,
   ⟨"WRITE", 0xFFFF0000, 0x31010000⟩, ⟨"RDNB", 0xFFFF0000, 0x32000000⟩,
   ⟨"READ", 0xFFFF0000, 0x33000000⟩, ⟨"RAISE", 0xFFFEFFFF, 0x40000000⟩,
   ⟨"WAIT", 0xFFFEFFFF, 0x41000000⟩, ⟨"WRESET", 0xFFFEFFFF, 0x42000000⟩] ++
  [⟨"TARM", 0xFFFFFFFF, 0x50000000⟩, ⟨"TSTOP", 0xFFFFFFFF, 0x51000000⟩,
   ⟨"TFIRE", 0xFFFFFFFF, 0x52000000⟩, ⟨"CONSTRUCT", 0xFFFE0000, 0x60000000⟩,
   ⟨"SETUP", 0xFFFFFFFF, 0x61000000⟩]

/-- A word selects a row (R94). -/
def OpcodeRow.selects (row : OpcodeRow) (w : Word) : Bool := w &&& row.mask == row.pattern

/-! ## Ports (R95) -/

/-- The port table: which operations, with which channel, a port accepts. -/
def accepts : Agent → Instr → Bool
  | a, .push ch _ => (a, ch) == (.txt, .tx) || (a, ch) == (.isr, .rx)
  | a, .pop ch => (a, ch) == (.rxt, .rx) || (a, ch) == (.isr, .tx)
  | a, .peek ch => (a, ch) == (.rxt, .rx) || (a, ch) == (.isr, .tx)
  | a, .used ch => (a, ch) == (.txt, .tx) || (a, ch) == (.rxt, .rx) || a == .isr
  | a, .isFull ch => (a, ch) == (.txt, .tx) || (a, ch) == (.rxt, .rx) || a == .isr
  | a, .isEmpty ch => (a, ch) == (.txt, .tx) || (a, ch) == (.rxt, .rx) || a == .isr
  | a, .cap ch => (a, ch) == (.txt, .tx) || (a, ch) == (.rxt, .rx) || a == .isr || a == .host
  | a, .snap ch => (a, ch) == (.txt, .tx) || (a, ch) == (.rxt, .rx)
  | a, .fcTxt => a == .txt
  | a, .fcTxi => a == .isr
  | a, .fcRxt => a == .rxt
  | a, .fcRxi => a == .isr
  | a, .isr => a == .isr
  | a, .errChk => a == .isr
  | a, .rxBurst => a == .isr
  | a, .txBurst => a == .isr
  | a, .wrnb _ => a == .txt
  | a, .write _ => a == .txt
  | a, .rdnb _ => a == .rxt
  | a, .read _ => a == .rxt
  | a, .raise _ => a == .isr
  | a, .wait ch => (a, ch) == (.txt, .tx) || (a, ch) == (.rxt, .rx)
  | a, .wreset _ => a == .host
  | a, .tarm => a == .isr
  | a, .tstop => a == .isr
  | a, .tfire => a == .tmr
  | a, .construct _ _ => a == .host
  | a, .setup => a == .host

/-- A port that accepts the operation: the first of `TXT`, `RXT`, `ISR`, `TMR`, `HOST`. -/
def acceptingPort (i : Instr) : Agent :=
  if accepts .txt i then .txt
  else if accepts .rxt i then .rxt
  else if accepts .isr i then .isr
  else if accepts .tmr i then .tmr
  else .host

/-- The channels an operation names, which must be constructed before it runs: `CONSTRUCT` needs none,
`SETUP`, `ISR` and `ERRCHK` need both (R96 (3)). -/
def channelsNeeded : Instr → List Chan
  | .push ch _ => [ch]
  | .pop ch => [ch]
  | .peek ch => [ch]
  | .used ch => [ch]
  | .isFull ch => [ch]
  | .isEmpty ch => [ch]
  | .cap ch => [ch]
  | .snap ch => [ch]
  | .fcTxt => [.tx]
  | .fcTxi => [.tx]
  | .fcRxt => [.rx]
  | .fcRxi => [.rx]
  | .isr => [.rx, .tx]
  | .errChk => [.rx, .tx]
  | .rxBurst => [.rx]
  | .txBurst => [.tx]
  | .wrnb _ => [.tx]
  | .write _ => [.tx]
  | .rdnb _ => [.rx]
  | .read _ => [.rx]
  | .raise ch => [ch]
  | .wait ch => [ch]
  | .wreset ch => [ch]
  | .tarm => [.rx]
  | .tstop => [.rx]
  | .tfire => [.rx]
  | .construct _ _ => []
  | .setup => [.rx, .tx]

end Sys2Proof
end

