-- ==== Sys2Proof/Machine/State.lean ====
section
/-! DEFINITION. The state of the block (10_state.md S1 to S13), the sequencer positions of operations in
progress (10_state.md R37), the inputs and outputs of the environment, and the state after reset. -/

namespace Sys2Proof.Machine

/-! ## Architectural elements -/

/-- The wake signal of a channel (10_state.md R28, 44_wake_timer_lifecycle.md R240). -/
inductive Wake
  | idle
  | raised
  | parked
deriving DecidableEq, Repr

/-- The partial-fill timer (10_state.md R29). -/
inductive Timer
  | idle
  | armed
deriving DecidableEq, Repr

/-- The status of an agent (10_state.md R33). -/
inductive Run
  | idle
  | busy
  | parked
  | halted
deriving DecidableEq, Repr

/-- The parameter `CONCURRENCY` (20_memory.md R73, R74; log 5). -/
inductive Concurrency
  | preemptive
  | parallel
deriving DecidableEq, Repr

/-- The contract violations (60_exceptions.md R281). -/
inductive ViolationCode
  | pushFull
  | popEmpty
  | peekEmpty
deriving DecidableEq, Repr

/-- What `FAULT` records: code, channel, agent (10_state.md R32). -/
structure Violation where
  code : ViolationCode
  chan : Chan
  agent : Agent
deriving DecidableEq, Repr

/-- The two latches of a thread agent (10_state.md R36). -/
structure Snapshot where
  snapW : Index
  snapR : Index
deriving DecidableEq, Repr

/-! ## Replies -/

/-- The `STATUS` field of a response (30_encoding.md R97). -/
inductive Status
  | ok
  | wouldBlock
  | fault
  | rejected
  | illegal
deriving DecidableEq, Repr

/-- What an operation answers: status, value, and the bytes it gives back through the port's data stream
(30_encoding.md R93, R97). -/
structure Reply where
  status : Status
  value : Index
  data : List Byte
deriving DecidableEq, Repr

/-! ## Sequencer positions (10_state.md R37; 20_memory.md R70) -/

/-- The three queries from the two counters (10_state.md R27). -/
inductive Query
  | used
  | full
  | empty
deriving DecidableEq, Repr

/-- The labelled step an agent performs next, with the operation-local values it holds there. The names are
the labels of the operation rules: `push4` is `PUSH.4`. -/
inductive Pos
  | push1 (ch : Chan) (b : Byte)
  | push2 (ch : Chan) (b : Byte) (w : Index)
  | push4 (ch : Chan) (b : Byte) (w : Index)
  /-- `b` is the byte just stored; `PUSH.5` publishes it -/
  | push5 (ch : Chan) (b : Byte) (w : Index)
  | pop1 (ch : Chan)
  | pop2 (ch : Chan) (r : Index)
  | pop4 (ch : Chan) (r : Index)
  | pop5 (ch : Chan) (r : Index) (b : Byte)
  | peek1 (ch : Chan)
  | peek2 (ch : Chan) (r : Index)
  | peek4 (ch : Chan) (r : Index)
  /-- the raise of a contract violation, one event (60_exceptions.md R281) -/
  | violate (code : ViolationCode) (ch : Chan)
  | query1 (q : Query) (ch : Chan)
  | query2 (q : Query) (ch : Chan) (w : Index)
  | cap1 (ch : Chan)
  | snap1 (ch : Chan)
  | snap2 (ch : Chan)
  | fcTxt1
  | fcTxt2 (w1 : Index)
  | fcTxt3
  | fcTxi1
  | fcTxi2 (w1 : Index)
  | fcTxi3 (u : Index)
  | fcTxi4
  | fcRxt1
  | fcRxt2 (w1 : Index)
  | fcRxt3
  | fcRxi1
  | fcRxi2 (w1 : Index)
  | fcRxi3 (u : Index)
  | fcRxi4a
  | fcRxi4b
  | fcRxi4c
  | isr1
  | isr3
  | isr4
  | errChk1
  | errChk2 (framing : Bool)
  | errChk3
  | rxBurst2
  | txBurst3 (b : Byte)
  | raise1 (ch : Chan)
  | wait1 (ch : Chan)
  | wait2 (ch : Chan)
  | wreset1 (ch : Chan)
  | tarm1
  | tstop1
  | tfire1
  | construct1 (ch : Chan) (capv : Index)
  | setup1
deriving DecidableEq, Repr

/-- Where a composite operation goes on when the operation it called has answered, with its locals
(42_interrupt_handler.md R185). -/
inductive Caller
  | isrErrChk
  | isrRxBurst
  | isrTxBurst
  | rxBurstIsFull
  | rxBurstPush
  | rxBurstFc
  | txBurstIsEmpty
  | txBurstPeek
  | txBurstPop
  | txBurstFc
  /-- `rest` is what is not pushed yet, `n` how many are -/
  | wrnbSnap (rest : List Byte)
  | wrnbIsFull (rest : List Byte) (n : Nat)
  | wrnbPush (rest : List Byte) (n : Nat)
  | wrnbFc (wanted : Bool) (n : Nat)
  /-- `rest` is what is not written yet -/
  | writeWrnb (len : Nat) (rest : List Byte)
  | writeWait (len : Nat) (rest : List Byte)
  /-- `more` is how many bytes are still wanted, `buf` what is popped, in order -/
  | rdnbSnap (more : Nat)
  | rdnbIsEmpty (more : Nat) (buf : List Byte)
  | rdnbPop (more : Nat) (buf : List Byte)
  | rdnbFc (wanted : Bool) (buf : List Byte)
  | readRdnb (len : Nat)
  | readWait (len : Nat)
deriving DecidableEq, Repr

/-- The continuation of an operation in progress: the next labelled step and the composite operations it
stands in, innermost first. -/
structure Sequencer where
  pos : Pos
  callers : List Caller
deriving DecidableEq, Repr

/-! ## Environment (10_state.md R34; 60_exceptions.md R298, R299) -/

/-- The flags `DEV.checkAndClearErrors()` returns. -/
structure ErrorFlags where
  overrun : Bool
  framing : Bool
deriving DecidableEq, Repr

/-- The answers the device will give to the calls still to come, one queue per call, next answer first;
`none` in `rx` is "no more data", `true` in `tx` is `ok` (log 6). -/
structure DeviceInput where
  poll : List Bool
  rxReady : List Bool
  txReady : List Bool
  rx : List (Option Byte)
  tx : List Bool
  err : List ErrorFlags
deriving DecidableEq, Repr

/-- One call of the block to `DEV` or `TSV`, with its answer. -/
inductive EnvCall
  | pollPendingInterrupt (pending : Bool)
  | rxReady (ready : Bool)
  | txReady (ready : Bool)
  | readByteNonBlocking (x : Option Byte)
  | writeByteNonBlocking (b : Byte) (ok : Bool)
  | checkAndClearErrors (e : ErrorFlags)
  | enableReceiveInterrupt
  | disableReceiveInterrupt
  | enableTransmitInterrupt
  | disableTransmitInterrupt
  | startOneShot (durationMs : Nat)
  | stop
deriving DecidableEq, Repr

/-- One command presented at a port: its word and the data stream that comes with it (30_encoding.md R90,
R93). -/
structure Command where
  word : Word
  data : List Byte
deriving DecidableEq, Repr

/-- One response given at a port: its word and the bytes given back (30_encoding.md R93, R97). -/
structure Response where
  agent : Agent
  word : Word
  data : List Byte
deriving DecidableEq, Repr

/-- One turn of the schedule (log 2, 3). `run a`: if `a` has no operation in progress it takes its next
command and performs it with no other agent's event inside, else it performs one event. `event a`: it takes
its next command and stops before the first event, else it performs one event. `powerOn`: power-on reset
(10_state.md R39). -/
inductive Turn
  | run (a : Agent)
  | event (a : Agent)
  | powerOn
deriving DecidableEq, Repr

/-! ## The state -/

/-- Everything 10_state.md gives the block, then the environment's inputs and outputs. -/
structure State where
  /-- S1, R20; 0 is "not constructed" -/
  cap : PerChan Index
  /-- S2, R21: the bytes written so far, in the canonical form `Memory.wf` -/
  storage : PerChan (List Host.Cell)
  /-- S3, R22 -/
  widx : PerChan Index
  /-- S4, R23 -/
  ridx : PerChan Index
  /-- S5, R28 -/
  wake : PerChan Wake
  /-- S6, R29 -/
  tmr : Timer
  /-- S7, R30 -/
  rxie : Bool
  /-- S8, R30 -/
  txie : Bool
  /-- S9, R31 -/
  ovrCnt : Word
  /-- S10, R31 -/
  frmCnt : Word
  /-- S11, R32 -/
  fault : Option Violation
  /-- S12, R33 -/
  run : PerAgent Run
  /-- S13, R36: the latches of the thread agent of each channel (`TXT` of TX, `RXT` of RX) -/
  snap : PerChan Snapshot
  /-- R37: the operation in progress of each agent -/
  seq : PerAgent (Option Sequencer)
  /-- the parameter `CONCURRENCY`, which no step changes (log 5) -/
  mode : Concurrency
  /-- commands waiting at each port, next first (log 1) -/
  ports : PerAgent (List Command)
  /-- the port whose command is being accepted (log 23) -/
  issuer : Agent
  /-- the data stream of the command being accepted (log 23) -/
  payload : List Byte
  /-- the turns still to be taken, next first (log 3) -/
  sched : List Turn
  /-- log 6 -/
  dev : DeviceInput
  /-- how many free values were taken (log 25) -/
  freeCtr : Nat
  /-- the calls made to `DEV` and `TSV`, newest first (log 12) -/
  trace : List EnvCall
  /-- the responses given, newest first (log 12) -/
  responses : List Response
deriving DecidableEq, Repr

/-! ## Stops -/

/-- Why the machine can stop with a fault. Contract violations are not here: the block goes on after one
(60_exceptions.md R281, R283), so the model does. -/
inductive Fault
  /-- `WAIT ch` while `wake[ch]` is PARKED: "no meaning" (44_wake_timer_lifecycle.md R242,
  93_implementation_defined.md U2). Raised by `WAIT` and, inside them, `WRITE` and `READ`. Safe (log 11). -/
  | secondWaiter
deriving DecidableEq, Repr

/-- Why an instruction can be refused. -/
inductive Refusal
  /-- No meaning written for the operation. Raised by no arm of this model. Safe. -/
  | notModelled (mnemonic : String)
  /-- An operation handed to an agent that is still inside another one: "has no meaning in this spec"
  (10_state.md R25, 93_implementation_defined.md U1). Raised when `exec` is asked for it; `step` never
  asks. Safe (log 10). -/
  | portInUse
deriving DecidableEq, Repr

/-! ## Reset -/

/-- Power-on reset (10_state.md R39, 70_reset_and_hazards.md R330): S1 to S13 as the spec says, nothing in
progress, `CONCURRENCY` at its default, nothing asked of the block yet (log 1, 3, 5, 6, 12, 23, 25). -/
def State.reset : State where
  cap := ⟨0, 0⟩
  storage := ⟨[], []⟩
  widx := ⟨0, 0⟩
  ridx := ⟨0, 0⟩
  wake := ⟨.idle, .idle⟩
  tmr := .idle
  rxie := false
  txie := false
  ovrCnt := 0
  frmCnt := 0
  fault := none
  run := ⟨.idle, .idle, .idle, .idle, .idle⟩
  snap := ⟨⟨0, 0⟩, ⟨0, 0⟩⟩
  seq := ⟨none, none, none, none, none⟩
  mode := .preemptive
  ports := ⟨[], [], [], [], []⟩
  issuer := .host
  payload := []
  sched := []
  dev := ⟨[], [], [], [], [], []⟩
  freeCtr := 0
  trace := []
  responses := []

end Sys2Proof.Machine
end

