-- ==== Sys2Proof/Machine/Operands.lean ====
section
/-! DEFINITION. Operands and index arithmetic: the wrapping difference, the slot of a counter value
(00_scope.md R10), the agents of a channel, the caller's bytes, the response word. -/

namespace Sys2Proof.Machine

/-! ## Index arithmetic (00_scope.md R10) -/

/-- `used(w, r) = (w - r) mod 2^16`. -/
def usedOf (w r : Index) : Index := w - r

/-- `mask(ch) = cap[ch] - 1`. -/
def maskOf (cap : Index) : Index := cap - 1

/-- The storage slot of a counter value: `i & mask(ch)` (20_memory.md R60). -/
def slotOf (i cap : Index) : Nat := (i &&& maskOf cap).toNat

/-- `inc16(v) = (v + 1) mod 2^16`. -/
def inc16 (v : Index) : Index := v + 1

/-- `half(ch) = cap[ch] / 2`, the wake threshold (00_scope.md R5). -/
def halfOf (cap : Index) : Index := cap / 2

/-! ## Agents and channels -/

/-- The thread of a channel (44_wake_timer_lifecycle.md R240). -/
def threadOf : Chan → Agent
  | .tx => .txt
  | .rx => .rxt

/-- The producer of a channel (10_state.md R22). -/
def producerOf : Chan → Agent
  | .tx => .txt
  | .rx => .isr

/-- The consumer of a channel (10_state.md R23). -/
def consumerOf : Chan → Agent
  | .tx => .isr
  | .rx => .rxt

/-! ## The caller's bytes (30_encoding.md R93) -/

/-- `bytes[0 .. len-1]`: the first `len` bytes of the data stream; a byte the stream does not hold is a free
value, the first of them number `free` (log 8). -/
def callerBytes (free : Nat) : Nat → List Byte → List Byte
  | 0, _ => []
  | len + 1, b :: bs => b :: callerBytes free len bs
  | len + 1, [] => Config.callerByte free :: callerBytes (free + 1) len []

/-- How many free values `callerBytes` takes. -/
def callerFree (len : Nat) (stream : List Byte) : Nat := len - stream.length

/-! ## Replies and the response word (30_encoding.md R97) -/

namespace Reply

/-- `OK` with a value. -/
def okVal (v : Index) : Reply := ⟨.ok, v, []⟩

/-- `OK 0`. -/
def ok0 : Reply := okVal 0

/-- `OK 1` or `OK 0`. -/
def okBool (b : Bool) : Reply := okVal (if b then 1 else 0)

/-- `OK n` with the `n` bytes given back. -/
def okData (buf : List Byte) : Reply := ⟨.ok, BitVec.ofNat 16 buf.length, buf⟩

def wouldBlock : Reply := ⟨.wouldBlock, 0, []⟩

/-- `REJECTED` with a reason: 1 not a power of two, 2 out of range, 3 already constructed, 4 not
constructed. -/
def rejected (reason : Index) : Reply := ⟨.rejected, reason, []⟩

def illegal : Reply := ⟨.illegal, 0, []⟩

end Reply

/-- The fault codes (60_exceptions.md R281). -/
def ViolationCode.number : ViolationCode → Index
  | .pushFull => 1
  | .popEmpty => 2
  | .peekEmpty => 3

/-- `FAULT` with the code of a violation. -/
def Reply.faultOf (code : ViolationCode) : Reply := ⟨.fault, code.number, []⟩

/-- The `STATUS` numbers. -/
def Status.number : Status → BitVec 4
  | .ok => 0
  | .wouldBlock => 1
  | .fault => 2
  | .rejected => 3
  | .illegal => 4

/-- The response word: `STATUS` in bits 31:28, zero in 27:16, `VALUE` in 15:0. -/
def Reply.word (r : Reply) : Word := r.status.number ++ (0 : BitVec 12) ++ r.value

end Sys2Proof.Machine
end

