-- ==== Sys2Proof/Machine/Flags.lean ====
section
/-! DEFINITION. The derived conditions (10_state.md R27), the decision functions of the flow-control policy
(41_flow_control.md R151), and the capacity tests (44_wake_timer_lifecycle.md R250). The block has no flags
register. -/

namespace Sys2Proof.Machine

/-! ## Derived conditions (10_state.md R27) -/

def emptyAt (w r : Index) : Bool := usedOf w r == 0

/-- `used ≥ cap`, also on states that break the invariant (40_ring_primitives.md R125). -/
def fullAt (w r cap : Index) : Bool := cap.toNat ≤ (usedOf w r).toNat

/-! ## Decision functions (41_flow_control.md R151) -/

def txThreadEnable (w0 r0 w1 r1 : Index) : Bool :=
  !emptyAt w1 r1 && (emptyAt w0 r0 || r1 != r0)

def txIsrDisable (w1 r1 : Index) : Bool := emptyAt w1 r1

def txIsrWake (w1 r1 cap : Index) : Bool := (usedOf w1 r1).toNat ≤ (halfOf cap).toNat

def rxThreadEnable (w0 r0 w1 r1 cap : Index) : Bool :=
  !fullAt w1 r1 cap && (fullAt w0 r0 cap || w1 != w0)

def rxIsrDisable (w1 r1 cap : Index) : Bool := fullAt w1 r1 cap

def rxIsrWake (w1 r1 cap : Index) : Bool := (halfOf cap).toNat ≤ (usedOf w1 r1).toNat

def rxIsrArm (w1 r1 cap : Index) : Bool :=
  !emptyAt w1 r1 && decide ((usedOf w1 r1).toNat < (halfOf cap).toNat)

/-! ## Capacity tests (44_wake_timer_lifecycle.md R250, 92_eei_decisions.md D39) -/

/-- `CAPV ≠ 0 and (CAPV & (CAPV - 1)) = 0`. -/
def powerOfTwo (v : Index) : Bool := v != 0 && v &&& (v - 1) == 0

/-- 2 to 16384 (00_scope.md R6). -/
def capInRange (v : Index) : Bool := Config.capMin ≤ v.toNat && v.toNat ≤ Config.capMax

end Sys2Proof.Machine
end

