-- ==== Sys2Proof/Machine/Ops.lean ====
section
/-! DEFINITION. The operations over the state that the meanings share: storage, counters, enables, wake
signals, the timer, the calls to the environment, a contract violation, accepting and completing a command. -/

namespace Sys2Proof.Machine

/-! ## Storage cells: strictly rising addresses, so equal contents are equal lists (log 7) -/

namespace Memory

/-- The byte last written at an address, `none` where nothing was written. -/
def read : List Host.Cell → Nat → Option Byte
  | [], _ => none
  | (k, b) :: m, a => if k = a then some b else read m a

def write : List Host.Cell → Nat → Byte → List Host.Cell
  | [], a, b => [(a, b)]
  | (k, c) :: m, a, b =>
    if a < k then (a, b) :: (k, c) :: m
    else if a = k then (a, b) :: m
    else (k, c) :: write m a b

/-- The canonical form. -/
abbrev wf (m : List Host.Cell) : Prop := m.Pairwise fun x y => x.1 < y.1

end Memory

namespace State

/-! ## Single elements, one atomic event each (20_memory.md R70) -/

/-- `MemRead(ch, i)`; a slot that nothing has written holds any value (10_state.md R40, log 7). -/
def memRead (s : State) (ch : Chan) (i : Nat) : Byte :=
  (Memory.read (s.storage.get ch) i).getD (Config.storageByte ch i)

/-- `MemWrite(ch, i, b)`. -/
def memWrite (s : State) (ch : Chan) (i : Nat) (b : Byte) : State :=
  { s with storage := s.storage.set ch (Memory.write (s.storage.get ch) i b) }

/-- `widx[ch] <- v`. -/
def setWidx (s : State) (ch : Chan) (v : Index) : State := { s with widx := s.widx.set ch v }

/-- `ridx[ch] <- v`. -/
def setRidx (s : State) (ch : Chan) (v : Index) : State := { s with ridx := s.ridx.set ch v }

/-- `x[a].snapW <- widx[ch]`, `a` the thread of `ch` (41_flow_control.md R152, `SNAP.1`). -/
def latchW (s : State) (ch : Chan) : State :=
  { s with snap := s.snap.set ch { s.snap.get ch with snapW := s.widx.get ch } }

/-- `x[a].snapR <- ridx[ch]` (`SNAP.2`). -/
def latchR (s : State) (ch : Chan) : State :=
  { s with snap := s.snap.set ch { s.snap.get ch with snapR := s.ridx.get ch } }

def setWake (s : State) (ch : Chan) (v : Wake) : State := { s with wake := s.wake.set ch v }

def setRun (s : State) (a : Agent) (v : Run) : State := { s with run := s.run.set a v }

def setSeq (s : State) (a : Agent) (v : Option Sequencer) : State := { s with seq := s.seq.set a v }

/-- `DEV.enableReceiveInterrupt(); RXIE <- 1`, one event (10_state.md R30). -/
def enableRx (s : State) : State :=
  { s with rxie := true, trace := .enableReceiveInterrupt :: s.trace }

/-- `DEV.disableReceiveInterrupt(); RXIE <- 0`. -/
def disableRx (s : State) : State :=
  { s with rxie := false, trace := .disableReceiveInterrupt :: s.trace }

/-- `DEV.enableTransmitInterrupt(); TXIE <- 1`. -/
def enableTx (s : State) : State :=
  { s with txie := true, trace := .enableTransmitInterrupt :: s.trace }

/-- `DEV.disableTransmitInterrupt(); TXIE <- 0`. -/
def disableTx (s : State) : State :=
  { s with txie := false, trace := .disableTransmitInterrupt :: s.trace }

/-- `ovr_cnt <- (ovr_cnt + 1) mod 2^32` (42_interrupt_handler.md R181). -/
def countOverrun (s : State) : State := { s with ovrCnt := s.ovrCnt + 1 }

/-- `frm_cnt <- (frm_cnt + 1) mod 2^32`. -/
def countFraming (s : State) : State := { s with frmCnt := s.frmCnt + 1 }

/-- `TARM.1`: start the timer and `tmr <- ARMED` when it is IDLE, nothing when it is ARMED
(44_wake_timer_lifecycle.md R245). -/
def armTimer (s : State) : State :=
  match s.tmr with
  | .idle => { s with tmr := .armed, trace := .startOneShot Config.timerMs :: s.trace }
  | .armed => s

/-- `TSTOP.1`: stop the timer and `tmr <- IDLE` when it is ARMED, nothing when it is IDLE (R246). -/
def stopTimer (s : State) : State :=
  match s.tmr with
  | .armed => { s with tmr := .idle, trace := .stop :: s.trace }
  | .idle => s

/-- `RAISE.1` (44_wake_timer_lifecycle.md R241): a raise on a parked thread is consumed by it. -/
def raiseWake (s : State) (ch : Chan) : State :=
  match s.wake.get ch with
  | .idle => s.setWake ch .raised
  | .raised => s
  | .parked => (s.setWake ch .idle).setRun (threadOf ch) .busy

/-- `WRESET.1` (R243). -/
def resetWake (s : State) (ch : Chan) : State :=
  match s.wake.get ch with
  | .raised => s.setWake ch .idle
  | .idle => s
  | .parked => s

/-- `TFIRE.1`: `tmr <- IDLE` and `RAISE RX`, one event (R247). -/
def fireTimer (s : State) : State := { s with tmr := .idle }.raiseWake .rx

/-- What an accepted `CONSTRUCT ch, CAPV` sets, one event (R250). The storage that comes to exist holds
nothing written (10_state.md R40). -/
def constructChan (s : State) (ch : Chan) (capv : Index) : State :=
  { s with
    cap := s.cap.set ch capv
    storage := s.storage.set ch []
    widx := s.widx.set ch 0
    ridx := s.ridx.set ch 0
    wake := s.wake.set ch .idle
    tmr := if ch = .rx then .idle else s.tmr
    snap := s.snap.set ch ⟨0, 0⟩ }

/-! ## Calls that the device answers (60_exceptions.md R298): the next answer of its queue, or a free value
where the queue is empty (log 6) -/

def devPoll (s : State) : Bool × State :=
  match s.dev.poll with
  | p :: ps =>
    (p, { s with dev := { s.dev with poll := ps }, trace := .pollPendingInterrupt p :: s.trace })
  | [] =>
    (Config.devPoll s.freeCtr,
      { s with
        freeCtr := s.freeCtr + 1
        trace := .pollPendingInterrupt (Config.devPoll s.freeCtr) :: s.trace })

def devRxReady (s : State) : Bool × State :=
  match s.dev.rxReady with
  | p :: ps => (p, { s with dev := { s.dev with rxReady := ps }, trace := .rxReady p :: s.trace })
  | [] =>
    (Config.devRxReady s.freeCtr,
      { s with
        freeCtr := s.freeCtr + 1
        trace := .rxReady (Config.devRxReady s.freeCtr) :: s.trace })

def devTxReady (s : State) : Bool × State :=
  match s.dev.txReady with
  | p :: ps => (p, { s with dev := { s.dev with txReady := ps }, trace := .txReady p :: s.trace })
  | [] =>
    (Config.devTxReady s.freeCtr,
      { s with
        freeCtr := s.freeCtr + 1
        trace := .txReady (Config.devTxReady s.freeCtr) :: s.trace })

/-- `DEV.readByteNonBlocking()`: a byte, or none. -/
def devRead (s : State) : Option Byte × State :=
  match s.dev.rx with
  | x :: xs => (x, { s with dev := { s.dev with rx := xs }, trace := .readByteNonBlocking x :: s.trace })
  | [] =>
    (Config.devReadByte s.freeCtr,
      { s with
        freeCtr := s.freeCtr + 1
        trace := .readByteNonBlocking (Config.devReadByte s.freeCtr) :: s.trace })

/-- `DEV.writeByteNonBlocking(b)`: `true` is `ok`, `false` is `wouldBlock`. -/
def devWrite (s : State) (b : Byte) : Bool × State :=
  match s.dev.tx with
  | p :: ps =>
    (p, { s with dev := { s.dev with tx := ps }, trace := .writeByteNonBlocking b p :: s.trace })
  | [] =>
    (Config.devWriteOk s.freeCtr,
      { s with
        freeCtr := s.freeCtr + 1
        trace := .writeByteNonBlocking b (Config.devWriteOk s.freeCtr) :: s.trace })

/-- `DEV.checkAndClearErrors()`. -/
def devErrors (s : State) : ErrorFlags × State :=
  match s.dev.err with
  | e :: es => (e, { s with dev := { s.dev with err := es }, trace := .checkAndClearErrors e :: s.trace })
  | [] =>
    let e : ErrorFlags := ⟨Config.devOverrun s.freeCtr, Config.devFraming s.freeCtr⟩
    (e, { s with freeCtr := s.freeCtr + 1, trace := .checkAndClearErrors e :: s.trace })

/-- The caller's `bytes[0 .. len-1]` of the command being accepted (30_encoding.md R93, log 8). -/
def takeBytes (s : State) (len : Nat) : List Byte × State :=
  (callerBytes s.freeCtr len s.payload,
    { s with freeCtr := s.freeCtr + callerFree len s.payload })

/-! ## Responses and contract violations -/

/-- `respond`: the response word at the port of `a` (30_encoding.md R97). -/
def respond (s : State) (a : Agent) (r : Reply) : State :=
  { s with responses := ⟨a, r.word, r.data⟩ :: s.responses }

/-- The one event of `raise ContractViolation(code, ch)` by agent `a` (60_exceptions.md R281): `FAULT` keeps
the first violation, the agent is halted, nothing else changes. -/
def violation (s : State) (a : Agent) (code : ViolationCode) (ch : Chan) : State :=
  { s with
    fault := match s.fault with
      | none => some ⟨code, ch, a⟩
      | some v => some v
    run := s.run.set a .halted }

/-- The response of a halted port: `FAULT` with the stored code (30_encoding.md R96 (2); log 9 where none is
stored). -/
def haltedReply (s : State) : Reply :=
  match s.fault with
  | some v => Reply.faultOf v.code
  | none => ⟨.fault, Config.haltedCode, []⟩

/-- Power-on reset applied from outside: the block's state as after reset, the environment's inputs and
outputs kept (log 15). -/
def powerOnReset (s : State) : State :=
  { State.reset with
    mode := s.mode
    ports := s.ports
    sched := s.sched
    dev := s.dev
    freeCtr := s.freeCtr
    trace := s.trace
    responses := s.responses }

end State

/-! ## How an operation ends when no other agent's event falls inside it (log 2) -/

/-- The end of an operation's own run: a reply, a contract violation with its reply, an operation still in
progress at a labelled step with the status the agent has there, or a step that has no meaning. -/
inductive Result
  | reply (s : State) (r : Reply)
  | violated (s : State) (r : Reply)
  | inProgress (s : State) (st : Run) (p : Pos) (cs : List Caller)
  | stuck (f : Fault)

/-- Composition (42_interrupt_handler.md R185): go on with the reply of a part; a violation in the part ends
the whole. -/
def Result.andThen (x : Result) (f : State → Reply → Result) : Result :=
  match x with
  | .reply s r => f s r
  | .violated s r => .violated s r
  | .inProgress s st p cs => .inProgress s st p cs
  | .stuck e => .stuck e

/-- `raise ContractViolation(code, ch)` inside an operation of `a` (60_exceptions.md R281). -/
def violate (a : Agent) (code : ViolationCode) (ch : Chan) (s : State) : Result :=
  .violated (s.violation a code ch) (Reply.faultOf code)

/-- The response word of an ended operation; the sequencer of one still in progress (10_state.md R33, R37). -/
def complete (a : Agent) : Result → Host.Outcome State Fault Refusal
  | .reply s r => .next (s.respond a r)
  | .violated s r => .next (s.respond a r)
  | .inProgress s st p cs => .next ((s.setSeq a (some ⟨p, cs⟩)).setRun a st)
  | .stuck f => .fault f

/-- One of the channels an operation needs is not constructed (30_encoding.md R96 (3)). -/
def needsConstruct (i : Instr) (s : State) : Bool := (channelsNeeded i).any fun ch => s.cap.get ch == 0

/-- What a port does with an operation, in the order of 30_encoding.md R96: `ILLEGAL` where the port does not
accept it, `FAULT` where the agent is halted, `REJECTED 4` where a channel it needs is not constructed, else
`go`. An agent still inside an operation has no meaning for a second one (log 10). -/
def accept (i : Instr) (s : State) (go : Host.Outcome State Fault Refusal) :
    Host.Outcome State Fault Refusal :=
  if accepts s.issuer i = false then .next (s.respond s.issuer Reply.illegal)
  else if s.run.get s.issuer = .halted then .next (s.respond s.issuer s.haltedReply)
  else if needsConstruct i s then .next (s.respond s.issuer (Reply.rejected 4))
  else if s.run.get s.issuer = .idle then go
  else .refused .portInUse

/-- The whole of an operation at the port `s.issuer`: accepted or answered by R96, run without another
agent's event inside it, completed. -/
def perform (i : Instr) (op : Agent → State → Result) (s : State) : Host.Outcome State Fault Refusal :=
  accept i s (complete s.issuer (op s.issuer s))

end Sys2Proof.Machine
end

