-- ==== Sys2Proof/Machine/Ring.lean ====
section
/-! DEFINITION. The ring-buffer primitives (40_ring_primitives.md R120 to R127). Each `…Op` is the operation
as a part of another one; each `exec…` is the command. -/

namespace Sys2Proof.Machine

/-- `PUSH ch, b` (R121): `PUSH.1` to `PUSH.5`. -/
def pushOp (ch : Chan) (b : Byte) (a : Agent) (s : State) : Result :=
  let w := s.widx.get ch
  let r := s.ridx.get ch
  if fullAt w r (s.cap.get ch) then violate a .pushFull ch s
  else .reply ((s.memWrite ch (slotOf w (s.cap.get ch)) b).setWidx ch (inc16 w)) Reply.ok0

/-- `POP ch` (R122): `POP.1` to `POP.5`. -/
def popOp (ch : Chan) (a : Agent) (s : State) : Result :=
  let r := s.ridx.get ch
  let w := s.widx.get ch
  if emptyAt w r then violate a .popEmpty ch s
  else
    let b := s.memRead ch (slotOf r (s.cap.get ch))
    .reply (s.setRidx ch (inc16 r)) (Reply.okVal (b.setWidth 16))

/-- `PEEK ch` (R123): `PEEK.1` to `PEEK.4`. -/
def peekOp (ch : Chan) (a : Agent) (s : State) : Result :=
  let r := s.ridx.get ch
  let w := s.widx.get ch
  if emptyAt w r then violate a .peekEmpty ch s
  else .reply s (Reply.okVal ((s.memRead ch (slotOf r (s.cap.get ch))).setWidth 16))

/-- What a query answers from the two loads (R124 to R126). -/
def queryReply (q : Query) (w r cap : Index) : Reply :=
  match q with
  | .used => Reply.okVal (usedOf w r)
  | .full => Reply.okBool (fullAt w r cap)
  | .empty => Reply.okBool (emptyAt w r)

/-- `USED`, `ISFULL`, `ISEMPTY` (R124 to R126). -/
def queryOp (q : Query) (ch : Chan) (s : State) : Result :=
  .reply s (queryReply q (s.widx.get ch) (s.ridx.get ch) (s.cap.get ch))

/-- `CAP ch` (R127). -/
def capOp (ch : Chan) (s : State) : Result := .reply s (Reply.okVal (s.cap.get ch))

/-! ## Commands -/

def execPush (ch : Chan) (b : Byte) (s : State) : Host.Outcome State Fault Refusal :=
  perform (.push ch b) (pushOp ch b) s

def execPop (ch : Chan) (s : State) : Host.Outcome State Fault Refusal := perform (.pop ch) (popOp ch) s

def execPeek (ch : Chan) (s : State) : Host.Outcome State Fault Refusal :=
  perform (.peek ch) (peekOp ch) s

def execUsed (ch : Chan) (s : State) : Host.Outcome State Fault Refusal :=
  perform (.used ch) (fun _ => queryOp .used ch) s

def execIsFull (ch : Chan) (s : State) : Host.Outcome State Fault Refusal :=
  perform (.isFull ch) (fun _ => queryOp .full ch) s

def execIsEmpty (ch : Chan) (s : State) : Host.Outcome State Fault Refusal :=
  perform (.isEmpty ch) (fun _ => queryOp .empty ch) s

def execCap (ch : Chan) (s : State) : Host.Outcome State Fault Refusal :=
  perform (.cap ch) (fun _ => capOp ch) s

end Sys2Proof.Machine
end

