-- ==== Sys2Proof/Machine/Flow.lean ====
section
/-! DEFINITION. The flow-control policy (41_flow_control.md R150 to R156). -/

namespace Sys2Proof.Machine

/-- `SNAP ch` (R152): `SNAP.1`, `SNAP.2`. -/
def snapOp (ch : Chan) (s : State) : Result := .reply ((s.latchW ch).latchR ch) Reply.ok0

/-- The decision of `FC.TXT` from the latches and the two loads (R153). -/
def fcTxtDecides (s : State) (w1 r1 : Index) : Bool :=
  txThreadEnable (s.snap.get .tx).snapW (s.snap.get .tx).snapR w1 r1

/-- `FC.TXT` (R153). -/
def fcTxtOp (s : State) : Result :=
  .reply (if fcTxtDecides s (s.widx.get .tx) (s.ridx.get .tx) then s.enableTx else s) Reply.ok0

/-- `FC.TXI` (R154): the disable, then the raise. -/
def fcTxiOp (s : State) : Result :=
  let w1 := s.widx.get .tx
  let r1 := s.ridx.get .tx
  let s1 := if txIsrDisable w1 r1 then s.disableTx else s
  .reply (if txIsrWake w1 r1 (s.cap.get .tx) then s1.raiseWake .tx else s1) Reply.ok0

/-- The decision of `FC.RXT` (R155). -/
def fcRxtDecides (s : State) (w1 r1 : Index) : Bool :=
  rxThreadEnable (s.snap.get .rx).snapW (s.snap.get .rx).snapR w1 r1 (s.cap.get .rx)

/-- `FC.RXT` (R155). -/
def fcRxtOp (s : State) : Result :=
  .reply (if fcRxtDecides s (s.widx.get .rx) (s.ridx.get .rx) then s.enableRx else s) Reply.ok0

/-- `FC.RXI` (R156): the policy, then the partial-fill timer rule. -/
def fcRxiOp (s : State) : Result :=
  let w1 := s.widx.get .rx
  let r1 := s.ridx.get .rx
  let cap := s.cap.get .rx
  let s1 := if rxIsrDisable w1 r1 cap then s.disableRx else s
  .reply
    (if rxIsrWake w1 r1 cap then s1.stopTimer.raiseWake .rx
     else if rxIsrArm w1 r1 cap then s1.armTimer
     else s1)
    Reply.ok0

/-! ## Commands -/

def execSnap (ch : Chan) (s : State) : Host.Outcome State Fault Refusal :=
  perform (.snap ch) (fun _ => snapOp ch) s

def execFcTxt (s : State) : Host.Outcome State Fault Refusal := perform .fcTxt (fun _ => fcTxtOp) s

def execFcTxi (s : State) : Host.Outcome State Fault Refusal := perform .fcTxi (fun _ => fcTxiOp) s

def execFcRxt (s : State) : Host.Outcome State Fault Refusal := perform .fcRxt (fun _ => fcRxtOp) s

def execFcRxi (s : State) : Host.Outcome State Fault Refusal := perform .fcRxi (fun _ => fcRxiOp) s

end Sys2Proof.Machine
end

