-- ==== Sys2Proof/Machine/Lifecycle.lean ====
section
/-! DEFINITION. The wake signal, the partial-fill timer, construction and setup
(44_wake_timer_lifecycle.md R240 to R251). -/

namespace Sys2Proof.Machine

/-- `RAISE ch` (R241). -/
def raiseOp (ch : Chan) (s : State) : Result := .reply (s.raiseWake ch) Reply.ok0

/-- `WAIT ch` (R242), `cs` the composite operations it stands in: a raised signal is consumed, an idle one
parks the thread, a parked one has no meaning (log 11). -/
def waitOp (ch : Chan) (cs : List Caller) (s : State) : Result :=
  match s.wake.get ch with
  | .raised => .reply (s.setWake ch .idle) Reply.ok0
  | .idle => .inProgress (s.setWake ch .parked) .parked (.wait2 ch) cs
  | .parked => .stuck .secondWaiter

/-- `WRESET ch` (R243). -/
def wresetOp (ch : Chan) (s : State) : Result := .reply (s.resetWake ch) Reply.ok0

/-- `TARM` (R245). -/
def tarmOp (s : State) : Result := .reply s.armTimer Reply.ok0

/-- `TSTOP` (R246). -/
def tstopOp (s : State) : Result := .reply s.stopTimer Reply.ok0

/-- `TFIRE` (R247). -/
def tfireOp (s : State) : Result := .reply s.fireTimer Reply.ok0

/-- `CONSTRUCT ch, CAPV` (R250): the tests in their order. -/
def constructOp (ch : Chan) (capv : Index) (s : State) : Result :=
  if s.cap.get ch ≠ 0 then .reply s (Reply.rejected 3)
  else if powerOfTwo capv = false then .reply s (Reply.rejected 1)
  else if capInRange capv = false then .reply s (Reply.rejected 2)
  else .reply (s.constructChan ch capv) Reply.ok0

/-- `SETUP` (R251). -/
def setupOp (s : State) : Result := .reply s.enableRx Reply.ok0

/-! ## Commands -/

def execRaise (ch : Chan) (s : State) : Host.Outcome State Fault Refusal :=
  perform (.raise ch) (fun _ => raiseOp ch) s

def execWait (ch : Chan) (s : State) : Host.Outcome State Fault Refusal :=
  perform (.wait ch) (fun _ => waitOp ch []) s

def execWreset (ch : Chan) (s : State) : Host.Outcome State Fault Refusal :=
  perform (.wreset ch) (fun _ => wresetOp ch) s

def execTarm (s : State) : Host.Outcome State Fault Refusal := perform .tarm (fun _ => tarmOp) s

def execTstop (s : State) : Host.Outcome State Fault Refusal := perform .tstop (fun _ => tstopOp) s

def execTfire (s : State) : Host.Outcome State Fault Refusal := perform .tfire (fun _ => tfireOp) s

def execConstruct (ch : Chan) (capv : Index) (s : State) : Host.Outcome State Fault Refusal :=
  perform (.construct ch capv) (fun _ => constructOp ch capv) s

def execSetup (s : State) : Host.Outcome State Fault Refusal := perform .setup (fun _ => setupOp) s

end Sys2Proof.Machine
end

