-- ==== Sys2Proof/Machine/Api.lean ====
section
/-! DEFINITION. The thread-facing calls (43_thread_api.md R210 to R215). -/

namespace Sys2Proof.Machine

/-- The loop `WRNB.2` to `WRNB.4` (R210) over the bytes not pushed yet, `n` of them pushed so far: the
reply's value is the count. -/
def wrnbLoop (a : Agent) : List Byte → Nat → State → Result
  | [], n, s => .reply s (Reply.okVal (BitVec.ofNat 16 n))
  | b :: bs, n, s =>
    (queryOp .full .tx s).andThen fun s f =>
      if f.value = 1 then .reply s (Reply.okVal (BitVec.ofNat 16 n))
      else (pushOp .tx b a s).andThen fun s _ => wrnbLoop a bs (n + 1) s

/-- The response of `WRNB`: `WOULD_BLOCK` where nothing was pushed and something was to be (R210). -/
def wrnbReply (wanted : Bool) (n : Nat) : Reply :=
  if n = 0 ∧ wanted then Reply.wouldBlock else Reply.okVal (BitVec.ofNat 16 n)

/-- `WRNB LEN, bytes` (R210): the "before" observation, the burst, the policy once. -/
def wrnbOp (bytes : List Byte) (a : Agent) (s : State) : Result :=
  (snapOp .tx s).andThen fun s _ =>
    (wrnbLoop a bytes 0 s).andThen fun s n =>
      (fcTxtOp s).andThen fun s _ => .reply s (wrnbReply (!bytes.isEmpty) n.value.toNat)

/-- The loop of `WRITE` (R211), `rest` what is not written yet. With no other agent moving, three passes
reach a response or park; a pass beyond the fuel would go on at `WRITE.2` in the next turn. -/
def writeLoop (a : Agent) (len : Nat) : Nat → List Byte → State → Result
  | 0, rest, s => .inProgress s .busy (.snap1 .tx) [.wrnbSnap rest, .writeWrnb len rest]
  | fuel + 1, rest, s =>
    (wrnbOp rest a s).andThen fun s res =>
      if res.status = .wouldBlock then
        (waitOp .tx [.writeWait len rest] s).andThen fun s _ => writeLoop a len fuel rest s
      else if rest.drop res.value.toNat = [] then .reply s (Reply.okVal (BitVec.ofNat 16 len))
      else writeLoop a len fuel (rest.drop res.value.toNat) s

/-- `WRITE LEN, bytes` (R211): `LEN = 0` answers at once. -/
def writeOp (len : Nat) (bytes : List Byte) (a : Agent) (s : State) : Result :=
  if bytes = [] then .reply s (Reply.okVal (BitVec.ofNat 16 len))
  else writeLoop a len 3 bytes s

/-- The loop `RDNB.2` to `RDNB.4` (R212), `buf` what is popped so far, in order: the reply's data is the
buffer. -/
def rdnbLoop (a : Agent) : Nat → List Byte → State → Result
  | 0, buf, s => .reply s (Reply.okData buf)
  | more + 1, buf, s =>
    (queryOp .empty .rx s).andThen fun s e =>
      if e.value = 1 then .reply s (Reply.okData buf)
      else (popOp .rx a s).andThen fun s b => rdnbLoop a more (buf ++ [b.value.setWidth 8]) s

/-- The response of `RDNB` (R212). -/
def rdnbReply (wanted : Bool) (buf : List Byte) : Reply :=
  if buf = [] ∧ wanted then Reply.wouldBlock else Reply.okData buf

/-- `RDNB LEN` (R212). -/
def rdnbOp (len : Nat) (a : Agent) (s : State) : Result :=
  (snapOp .rx s).andThen fun s _ =>
    (rdnbLoop a len [] s).andThen fun s got =>
      (fcRxtOp s).andThen fun s _ => .reply s (rdnbReply (decide (0 < len)) got.data)

/-- The loop of `READ` (R213). With no other agent moving, two passes reach a response or park. -/
def readLoop (a : Agent) (len : Nat) : Nat → State → Result
  | 0, s => .inProgress s .busy (.snap1 .rx) [.rdnbSnap len, .readRdnb len]
  | fuel + 1, s =>
    (rdnbOp len a s).andThen fun s res =>
      if res.status = .wouldBlock then
        (waitOp .rx [.readWait len] s).andThen fun s _ => readLoop a len fuel s
      else .reply s res

/-- `READ LEN` (R213). -/
def readOp (len : Nat) (a : Agent) (s : State) : Result := readLoop a len 2 s

/-! ## Commands -/

def execWrnb (len : Nat) (s : State) : Host.Outcome State Fault Refusal :=
  perform (.wrnb len) (fun a s => let (bytes, s) := s.takeBytes len; wrnbOp bytes a s) s

def execWrite (len : Nat) (s : State) : Host.Outcome State Fault Refusal :=
  perform (.write len) (fun a s => let (bytes, s) := s.takeBytes len; writeOp len bytes a s) s

def execRdnb (len : Nat) (s : State) : Host.Outcome State Fault Refusal :=
  perform (.rdnb len) (rdnbOp len) s

def execRead (len : Nat) (s : State) : Host.Outcome State Fault Refusal :=
  perform (.read len) (readOp len) s

end Sys2Proof.Machine
end

