-- ==== Sys2Proof/Machine/Handler.lean ====
section
/-! DEFINITION. The interrupt handler and its bursts (42_interrupt_handler.md R180 to R185). The bursts call
their parts in the order of the rules; the fuel of a loop is a bound that the loop itself respects when no
other agent moves. -/

namespace Sys2Proof.Machine

/-- `ERRCHK` (R181): each flag that is set adds one to its own counter. -/
def errChkOp (s : State) : Result :=
  let (e, s1) := s.devErrors
  let s2 := if e.overrun then s1.countOverrun else s1
  .reply (if e.framing then s2.countFraming else s2) Reply.ok0

/-- The loop `RXBURST.1` to `RXBURST.3` (R182): room, then a device read, then the push. `fuel` is how many
bytes there is room for. -/
def rxBurstLoop (a : Agent) : Nat → State → Result
  | 0, s => .reply s Reply.ok0
  | fuel + 1, s =>
    (queryOp .full .rx s).andThen fun s f =>
      if f.value = 1 then .reply s Reply.ok0
      else
        match s.devRead with
        | (none, s) => .reply s Reply.ok0
        | (some x, s) => (pushOp .rx x a s).andThen fun s _ => rxBurstLoop a fuel s

/-- How many bytes there is room for. -/
def roomOf (s : State) (ch : Chan) : Nat :=
  (s.cap.get ch).toNat - (usedOf (s.widx.get ch) (s.ridx.get ch)).toNat

/-- `RXBURST` (R182). -/
def rxBurstOp (a : Agent) (s : State) : Result :=
  (rxBurstLoop a (roomOf s .rx) s).andThen fun s _ =>
    (fcRxiOp s).andThen fun s _ => .reply s Reply.ok0

/-- The loop `TXBURST.1` to `TXBURST.4` (R183): peek, one device write, pop only on `ok`. `fuel` is how many
bytes are in use. -/
def txBurstLoop (a : Agent) : Nat → State → Result
  | 0, s => .reply s Reply.ok0
  | fuel + 1, s =>
    (queryOp .empty .tx s).andThen fun s e =>
      if e.value = 1 then .reply s Reply.ok0
      else
        (peekOp .tx a s).andThen fun s b =>
          match s.devWrite (b.value.setWidth 8) with
          | (false, s) => .reply s Reply.ok0
          | (true, s) => (popOp .tx a s).andThen fun s _ => txBurstLoop a fuel s

/-- `TXBURST` (R183). -/
def txBurstOp (a : Agent) (s : State) : Result :=
  (txBurstLoop a (usedOf (s.widx.get .tx) (s.ridx.get .tx)).toNat s).andThen fun s _ =>
    (fcTxiOp s).andThen fun s _ => .reply s Reply.ok0

/-- One iteration after a pending poll, `ISR.2` to `ISR.4` (R180): errors, then receive, then transmit. -/
def isrIteration (a : Agent) (s : State) : Result :=
  (errChkOp s).andThen fun s _ =>
    let (rr, s) := s.devRxReady
    (if rr then rxBurstOp a s else .reply s Reply.ok0).andThen fun s _ =>
      let (tr, s) := s.devTxReady
      if tr then txBurstOp a s else .reply s Reply.ok0

/-- The loop of `ISR` (R180): it ends only when the device reports nothing pending. After `fuel` pending
iterations the handler is still in progress at `ISR.1` and goes on with its next turn (log 13; a device that
reports pending for ever keeps it running, 70_reset_and_hazards.md R344). -/
def isrLoop (a : Agent) : Nat → State → Result
  | 0, s => .inProgress s .busy .isr1 []
  | fuel + 1, s =>
    match s.devPoll with
    | (false, s) => .reply s Reply.ok0
    | (true, s) => (isrIteration a s).andThen fun s _ => isrLoop a fuel s

/-- `ISR` (R180): as many iterations as the device's queue answers polls, and one poll more. -/
def isrOp (a : Agent) (s : State) : Result := isrLoop a (s.dev.poll.length + 1) s

/-! ## Commands -/

def execIsr (s : State) : Host.Outcome State Fault Refusal := perform .isr isrOp s

def execErrChk (s : State) : Host.Outcome State Fault Refusal := perform .errChk (fun _ => errChkOp) s

def execRxBurst (s : State) : Host.Outcome State Fault Refusal := perform .rxBurst rxBurstOp s

def execTxBurst (s : State) : Host.Outcome State Fault Refusal := perform .txBurst txBurstOp s

end Sys2Proof.Machine
end

