-- ==== Sys2Proof/Machine/Dispatch.lean ====
section
/-! DEFINITION. One arm for each operation. -/

namespace Sys2Proof.Machine

/-- The meaning of an operation presented at the port `s.issuer` with the data stream `s.payload`. -/
def exec (i : Instr) (s : State) : Host.Outcome State Fault Refusal :=
  match i with
  | .push ch b => Sys2Proof.Machine.execPush ch b s
  | .pop ch => Sys2Proof.Machine.execPop ch s
  | .peek ch => Sys2Proof.Machine.execPeek ch s
  | .used ch => Sys2Proof.Machine.execUsed ch s
  | .isFull ch => Sys2Proof.Machine.execIsFull ch s
  | .isEmpty ch => Sys2Proof.Machine.execIsEmpty ch s
  | .cap ch => Sys2Proof.Machine.execCap ch s
  | .snap ch => Sys2Proof.Machine.execSnap ch s
  | .fcTxt => Sys2Proof.Machine.execFcTxt s
  | .fcTxi => Sys2Proof.Machine.execFcTxi s
  | .fcRxt => Sys2Proof.Machine.execFcRxt s
  | .fcRxi => Sys2Proof.Machine.execFcRxi s
  | .isr => Sys2Proof.Machine.execIsr s
  | .errChk => Sys2Proof.Machine.execErrChk s
  | .rxBurst => Sys2Proof.Machine.execRxBurst s
  | .txBurst => Sys2Proof.Machine.execTxBurst s
  | .wrnb len => Sys2Proof.Machine.execWrnb len s
  | .write len => Sys2Proof.Machine.execWrite len s
  | .rdnb len => Sys2Proof.Machine.execRdnb len s
  | .read len => Sys2Proof.Machine.execRead len s
  | .raise ch => Sys2Proof.Machine.execRaise ch s
  | .wait ch => Sys2Proof.Machine.execWait ch s
  | .wreset ch => Sys2Proof.Machine.execWreset ch s
  | .tarm => Sys2Proof.Machine.execTarm s
  | .tstop => Sys2Proof.Machine.execTstop s
  | .tfire => Sys2Proof.Machine.execTfire s
  | .construct ch capv => Sys2Proof.Machine.execConstruct ch capv s
  | .setup => Sys2Proof.Machine.execSetup s

end Sys2Proof.Machine
end

