-- ==== Sys2Proof/Machine/Events.lean ====
section
/-! DEFINITION. The same operations one atomic event at a time (20_memory.md R70 to R72): where an operation
starts, what the labelled step of each position does, and how a composite operation goes on when a part has
answered (42_interrupt_handler.md R185). Tests on operation-local values take no event of their own. -/

namespace Sys2Proof.Machine

/-- What a step that answers or goes on without touching the state leads to: the next labelled step with the
composites it stands in, or a reply. -/
inductive Resumption
  | enter (p : Pos) (cs : List Caller)
  | answer (r : Reply)

/-- Where an operation starts (`bytes`: the caller's bytes of `WRNB` and `WRITE`). -/
def entry (bytes : List Byte) : Instr → Resumption
  | .push ch b => .enter (.push1 ch b) []
  | .pop ch => .enter (.pop1 ch) []
  | .peek ch => .enter (.peek1 ch) []
  | .used ch => .enter (.query1 .used ch) []
  | .isFull ch => .enter (.query1 .full ch) []
  | .isEmpty ch => .enter (.query1 .empty ch) []
  | .cap ch => .enter (.cap1 ch) []
  | .snap ch => .enter (.snap1 ch) []
  | .fcTxt => .enter .fcTxt1 []
  | .fcTxi => .enter .fcTxi1 []
  | .fcRxt => .enter .fcRxt1 []
  | .fcRxi => .enter .fcRxi1 []
  | .isr => .enter .isr1 []
  | .errChk => .enter .errChk1 []
  | .rxBurst => .enter (.query1 .full .rx) [.rxBurstIsFull]
  | .txBurst => .enter (.query1 .empty .tx) [.txBurstIsEmpty]
  | .wrnb _ => .enter (.snap1 .tx) [.wrnbSnap bytes]
  | .write len =>
    if bytes = [] then .answer (Reply.okVal (BitVec.ofNat 16 len))
    else .enter (.snap1 .tx) [.wrnbSnap bytes, .writeWrnb len bytes]
  | .rdnb len => .enter (.snap1 .rx) [.rdnbSnap len]
  | .read len => .enter (.snap1 .rx) [.rdnbSnap len, .readRdnb len]
  | .raise ch => .enter (.raise1 ch) []
  | .wait ch => .enter (.wait1 ch) []
  | .wreset ch => .enter (.wreset1 ch) []
  | .tarm => .enter .tarm1 []
  | .tstop => .enter .tstop1 []
  | .tfire => .enter .tfire1 []
  | .construct ch capv => .enter (.construct1 ch capv) []
  | .setup => .enter .setup1 []

/-- How a composite operation goes on with the reply of the part it called. -/
def resume (r : Reply) : Caller → Resumption
  | .isrErrChk => .enter .isr3 []
  | .isrRxBurst => .enter .isr4 []
  | .isrTxBurst => .enter .isr1 []
  | .rxBurstIsFull => if r.value = 1 then .enter .fcRxi1 [.rxBurstFc] else .enter .rxBurst2 []
  | .rxBurstPush => .enter (.query1 .full .rx) [.rxBurstIsFull]
  | .rxBurstFc => .answer Reply.ok0
  | .txBurstIsEmpty =>
    if r.value = 1 then .enter .fcTxi1 [.txBurstFc] else .enter (.peek1 .tx) [.txBurstPeek]
  | .txBurstPeek => .enter (.txBurst3 (r.value.setWidth 8)) []
  | .txBurstPop => .enter (.query1 .empty .tx) [.txBurstIsEmpty]
  | .txBurstFc => .answer Reply.ok0
  | .wrnbSnap [] => .enter .fcTxt1 [.wrnbFc false 0]
  | .wrnbSnap (b :: bs) => .enter (.query1 .full .tx) [.wrnbIsFull (b :: bs) 0]
  | .wrnbIsFull [] n => .enter .fcTxt1 [.wrnbFc true n]
  | .wrnbIsFull (b :: bs) n =>
    if r.value = 1 then .enter .fcTxt1 [.wrnbFc true n] else .enter (.push1 .tx b) [.wrnbPush bs (n + 1)]
  | .wrnbPush [] n => .enter .fcTxt1 [.wrnbFc true n]
  | .wrnbPush (b :: bs) n => .enter (.query1 .full .tx) [.wrnbIsFull (b :: bs) n]
  | .wrnbFc wanted n => .answer (wrnbReply wanted n)
  | .writeWrnb len rest =>
    if r.status = .wouldBlock then .enter (.wait1 .tx) [.writeWait len rest]
    else if rest.drop r.value.toNat = [] then .answer (Reply.okVal (BitVec.ofNat 16 len))
    else
      .enter (.snap1 .tx)
        [.wrnbSnap (rest.drop r.value.toNat), .writeWrnb len (rest.drop r.value.toNat)]
  | .writeWait len rest => .enter (.snap1 .tx) [.wrnbSnap rest, .writeWrnb len rest]
  | .rdnbSnap 0 => .enter .fcRxt1 [.rdnbFc false []]
  | .rdnbSnap (m + 1) => .enter (.query1 .empty .rx) [.rdnbIsEmpty (m + 1) []]
  | .rdnbIsEmpty m buf =>
    if r.value = 1 then .enter .fcRxt1 [.rdnbFc true buf] else .enter (.pop1 .rx) [.rdnbPop (m - 1) buf]
  | .rdnbPop 0 buf => .enter .fcRxt1 [.rdnbFc true (buf ++ [r.value.setWidth 8])]
  | .rdnbPop (m + 1) buf =>
    .enter (.query1 .empty .rx) [.rdnbIsEmpty (m + 1) (buf ++ [r.value.setWidth 8])]
  | .rdnbFc wanted buf => .answer (rdnbReply wanted buf)
  | .readRdnb len =>
    if r.status = .wouldBlock then .enter (.wait1 .rx) [.readWait len] else .answer r
  | .readWait len => .enter (.snap1 .rx) [.rdnbSnap len, .readRdnb len]

/-- What one labelled step leads to. -/
inductive EventResult
  /-- on to the next labelled step; `cs` are the composites entered with it -/
  | go (s : State) (p : Pos) (cs : List Caller)
  /-- the operation of this position answers -/
  | answer (s : State) (r : Reply)
  /-- a contract violation ends the whole operation -/
  | violated (s : State) (r : Reply)
  /-- the thread parks, to go on at `p` -/
  | park (s : State) (p : Pos)
  | stuck (f : Fault)

/-- Go on with what a caller or an entry says, the state being `s`. -/
def Resumption.result (s : State) : Resumption → EventResult
  | .enter p cs => .go s p cs
  | .answer r => .answer s r

/-- The level part of `FC.TXI` (41_flow_control.md R154): is there a raise to make. -/
def fcTxiTail (s : State) (u : Index) : EventResult :=
  if u.toNat ≤ (halfOf (s.cap.get .tx)).toNat then .go s .fcTxi4 [] else .answer s Reply.ok0

/-- The level part of `FC.RXI` (R156): wake, arm, or nothing. -/
def fcRxiTail (s : State) (u : Index) : EventResult :=
  if (halfOf (s.cap.get .rx)).toNat ≤ u.toNat then .go s .fcRxi4a []
  else if u = 0 then .answer s Reply.ok0
  else .go s .fcRxi4c []

/-- The labelled step at a position, performed by agent `a` (40_ring_primitives.md to
44_wake_timer_lifecycle.md). -/
def posEvent (a : Agent) (s : State) : Pos → EventResult
  | .push1 ch b => .go s (.push2 ch b (s.widx.get ch)) []
  | .push2 ch b w =>
    if fullAt w (s.ridx.get ch) (s.cap.get ch) then .go s (.violate .pushFull ch) []
    else .go s (.push4 ch b w) []
  | .push4 ch b w => .go (s.memWrite ch (slotOf w (s.cap.get ch)) b) (.push5 ch b w) []
  | .push5 ch _ w => .answer (s.setWidx ch (inc16 w)) Reply.ok0
  | .pop1 ch => .go s (.pop2 ch (s.ridx.get ch)) []
  | .pop2 ch r =>
    if emptyAt (s.widx.get ch) r then .go s (.violate .popEmpty ch) [] else .go s (.pop4 ch r) []
  | .pop4 ch r => .go s (.pop5 ch r (s.memRead ch (slotOf r (s.cap.get ch)))) []
  | .pop5 ch r b => .answer (s.setRidx ch (inc16 r)) (Reply.okVal (b.setWidth 16))
  | .peek1 ch => .go s (.peek2 ch (s.ridx.get ch)) []
  | .peek2 ch r =>
    if emptyAt (s.widx.get ch) r then .go s (.violate .peekEmpty ch) [] else .go s (.peek4 ch r) []
  | .peek4 ch r => .answer s (Reply.okVal ((s.memRead ch (slotOf r (s.cap.get ch))).setWidth 16))
  | .violate code ch => .violated (s.violation a code ch) (Reply.faultOf code)
  | .query1 q ch => .go s (.query2 q ch (s.widx.get ch)) []
  | .query2 q ch w => .answer s (queryReply q w (s.ridx.get ch) (s.cap.get ch))
  | .cap1 ch => .answer s (Reply.okVal (s.cap.get ch))
  | .snap1 ch => .go (s.latchW ch) (.snap2 ch) []
  | .snap2 ch => .answer (s.latchR ch) Reply.ok0
  | .fcTxt1 => .go s (.fcTxt2 (s.widx.get .tx)) []
  | .fcTxt2 w1 =>
    if fcTxtDecides s w1 (s.ridx.get .tx) then .go s .fcTxt3 [] else .answer s Reply.ok0
  | .fcTxt3 => .answer s.enableTx Reply.ok0
  | .fcTxi1 => .go s (.fcTxi2 (s.widx.get .tx)) []
  | .fcTxi2 w1 =>
    if txIsrDisable w1 (s.ridx.get .tx) then .go s (.fcTxi3 (usedOf w1 (s.ridx.get .tx))) []
    else fcTxiTail s (usedOf w1 (s.ridx.get .tx))
  | .fcTxi3 u => fcTxiTail s.disableTx u
  | .fcTxi4 => .answer (s.raiseWake .tx) Reply.ok0
  | .fcRxt1 => .go s (.fcRxt2 (s.widx.get .rx)) []
  | .fcRxt2 w1 =>
    if fcRxtDecides s w1 (s.ridx.get .rx) then .go s .fcRxt3 [] else .answer s Reply.ok0
  | .fcRxt3 => .answer s.enableRx Reply.ok0
  | .fcRxi1 => .go s (.fcRxi2 (s.widx.get .rx)) []
  | .fcRxi2 w1 =>
    if rxIsrDisable w1 (s.ridx.get .rx) (s.cap.get .rx) then
      .go s (.fcRxi3 (usedOf w1 (s.ridx.get .rx))) []
    else fcRxiTail s (usedOf w1 (s.ridx.get .rx))
  | .fcRxi3 u => fcRxiTail s.disableRx u
  | .fcRxi4a => .go s.stopTimer .fcRxi4b []
  | .fcRxi4b => .answer (s.raiseWake .rx) Reply.ok0
  | .fcRxi4c => .answer s.armTimer Reply.ok0
  | .isr1 =>
    match s.devPoll with
    | (true, s) => .go s .errChk1 [.isrErrChk]
    | (false, s) => .answer s Reply.ok0
  | .isr3 =>
    match s.devRxReady with
    | (true, s) => .go s (.query1 .full .rx) [.rxBurstIsFull, .isrRxBurst]
    | (false, s) => .go s .isr4 []
  | .isr4 =>
    match s.devTxReady with
    | (true, s) => .go s (.query1 .empty .tx) [.txBurstIsEmpty, .isrTxBurst]
    | (false, s) => .go s .isr1 []
  | .errChk1 =>
    match s.devErrors with
    | (⟨true, framing⟩, s) => .go s (.errChk2 framing) []
    | (⟨false, true⟩, s) => .go s .errChk3 []
    | (⟨false, false⟩, s) => .answer s Reply.ok0
  | .errChk2 framing =>
    if framing then .go s.countOverrun .errChk3 [] else .answer s.countOverrun Reply.ok0
  | .errChk3 => .answer s.countFraming Reply.ok0
  | .rxBurst2 =>
    match s.devRead with
    | (some x, s) => .go s (.push1 .rx x) [.rxBurstPush]
    | (none, s) => .go s .fcRxi1 [.rxBurstFc]
  | .txBurst3 b =>
    match s.devWrite b with
    | (true, s) => .go s (.pop1 .tx) [.txBurstPop]
    | (false, s) => .go s .fcTxi1 [.txBurstFc]
  | .raise1 ch => .answer (s.raiseWake ch) Reply.ok0
  | .wait1 ch =>
    match s.wake.get ch with
    | .raised => .answer (s.setWake ch .idle) Reply.ok0
    | .idle => .park (s.setWake ch .parked) (.wait2 ch)
    | .parked => .stuck .secondWaiter
  | .wait2 _ => .answer s Reply.ok0
  | .wreset1 ch => .answer (s.resetWake ch) Reply.ok0
  | .tarm1 => .answer s.armTimer Reply.ok0
  | .tstop1 => .answer s.stopTimer Reply.ok0
  | .tfire1 => .answer s.fireTimer Reply.ok0
  | .construct1 ch capv =>
    if s.cap.get ch ≠ 0 then .answer s (Reply.rejected 3)
    else if powerOfTwo capv = false then .answer s (Reply.rejected 1)
    else if capInRange capv = false then .answer s (Reply.rejected 2)
    else .answer (s.constructChan ch capv) Reply.ok0
  | .setup1 => .answer s.enableRx Reply.ok0

/-- An operation of `a` has answered: the response, and the agent is idle again. -/
def finish (a : Agent) (r : Reply) (s : State) : State :=
  ((s.setSeq a none).setRun a .idle).respond a r

/-- Hand a reply to the composite operations it stands in, innermost first. -/
def unwind (a : Agent) : List Caller → Reply → State → State
  | [], r, s => finish a r s
  | c :: cs, r, s =>
    match resume r c with
    | .enter p ds => s.setSeq a (some ⟨p, ds ++ cs⟩)
    | .answer r' => unwind a cs r' s

/-- The state after a labelled step of `a` inside the composites `cs`. -/
def settle (a : Agent) (cs : List Caller) : EventResult → Host.Outcome State Fault Refusal
  | .go s p ds => .next (s.setSeq a (some ⟨p, ds ++ cs⟩))
  | .answer s r => .next (unwind a cs r s)
  | .violated s r => .next ((s.setSeq a none).respond a r)
  | .park s p => .next ((s.setSeq a (some ⟨p, cs⟩)).setRun a .parked)
  | .stuck f => .fault f

/-- One event of an agent inside an operation. -/
def agentEvent (a : Agent) (s : State) : Host.Outcome State Fault Refusal :=
  match s.seq.get a with
  | none => .next s
  | some q => settle a q.callers (posEvent a s q.pos)

/-- The operation's own data stream, taken when it is accepted: only `WRNB` and `WRITE` take one. -/
def entryBytes (i : Instr) (s : State) : List Byte × State :=
  match i with
  | .wrnb len => s.takeBytes len
  | .write len => s.takeBytes len
  | .push _ _ | .pop _ | .peek _ | .used _ | .isFull _ | .isEmpty _ | .cap _ | .snap _ => ([], s)
  | .fcTxt | .fcTxi | .fcRxt | .fcRxi | .isr | .errChk | .rxBurst | .txBurst => ([], s)
  | .rdnb _ | .read _ | .raise _ | .wait _ | .wreset _ => ([], s)
  | .tarm | .tstop | .tfire | .construct _ _ | .setup => ([], s)

/-- Accept an operation at the port `s.issuer` (30_encoding.md R96) and stop before its first event
(`run: IDLE -> BUSY`, 60_exceptions.md R293). -/
def startOp (i : Instr) (s : State) : Host.Outcome State Fault Refusal :=
  accept i s
    (match entryBytes i s with
      | (bytes, s) =>
        match entry bytes i with
        | .enter p cs => .next ((s.setRun s.issuer .busy).setSeq s.issuer (some ⟨p, cs⟩))
        | .answer r => .next (finish s.issuer r s))

/-- `n` events of one agent with no other agent's between them, or fewer if it stops being BUSY. -/
def agentEvents (a : Agent) : Nat → State → Host.Outcome State Fault Refusal
  | 0, s => .next s
  | n + 1, s =>
    if s.run.get a = .busy then
      match agentEvent a s with
      | .next t => agentEvents a n t
      | .fault f => .fault f
      | .refused r => .refused r
    else .next s

end Sys2Proof.Machine
end

