-- ==== Sys2Proof/Machine/Turns.lean ====
section
/-! DEFINITION. Who moves next, the command at a port, and placing a command from outside
(20_memory.md R70 to R74, 30_encoding.md R90, R96; log 1, 3, 4, 26). -/

namespace Sys2Proof.Machine

/-- The handler is inside an operation that nothing may interrupt: `PREEMPTIVE` mode and `run[ISR] = BUSY`
(20_memory.md R73 (a); log 4). -/
def isrHolds (s : State) : Bool := s.mode == .preemptive && s.run.get .isr == .busy

/-- The next command of a port taken off it, and the port it stands at named. -/
def takeCommand (s : State) (a : Agent) (c : Command) (rest : List Command) : State :=
  { s with ports := s.ports.set a rest, issuer := a, payload := c.data }

/-- A port with no operation in progress: its next command is decoded and handed to `f`; a word that is no
operation answers `ILLEGAL` (30_encoding.md R96 (1)); no command, nothing happens. -/
def portTurn (f : Instr → State → Host.Outcome State Fault Refusal) (a : Agent) (s : State) :
    Host.Outcome State Fault Refusal :=
  match s.ports.get a with
  | [] => .next s
  | c :: rest =>
    match decode c.word with
    | .ok i => f i (takeCommand s a c rest)
    | .error _ => .next ((takeCommand s a c rest).respond a Reply.illegal)

/-- A turn of agent `a`: inside an operation one event, parked nothing (44_wake_timer_lifecycle.md R242: "While
parked the agent performs no event"), else its next command. -/
def agentTurn (f : Instr → State → Host.Outcome State Fault Refusal) (a : Agent) (s : State) :
    Host.Outcome State Fault Refusal :=
  match s.run.get a with
  | .idle => portTurn f a s
  | .busy => agentEvent a s
  | .parked => .next s
  | .halted => portTurn f a s

/-- One turn. Power-on reset comes first, then a handler operation that holds the block, then the schedule;
an empty schedule moves nobody. -/
def turn (s : State) : Host.Outcome State Fault Refusal :=
  match s.sched with
  | .powerOn :: ts => .next ({ s with sched := ts }.powerOnReset)
  | [] => if isrHolds s then agentEvent .isr s else .next s
  | .run a :: ts =>
    if isrHolds s then agentEvent .isr s else agentTurn exec a { s with sched := ts }
  | .event a :: ts =>
    if isrHolds s then agentEvent .isr s else agentTurn startOp a { s with sched := ts }

/-- An agent freed of an operation in progress, so that its port can take a command. -/
def freeAgent (s : State) (a : Agent) : State :=
  match s.run.get a with
  | .idle => s
  | .halted => s
  | .busy => (s.setRun a .idle).setSeq a none
  | .parked =>
    let s := (s.setRun a .idle).setSeq a none
    if a = .txt then s.setWake .tx .idle else if a = .rxt then s.setWake .rx .idle else s

/-- The port at which a word is presented when it is placed from outside: one that accepts it. -/
def portFor (w : Word) : Agent :=
  match decode w with
  | .ok i => acceptingPort i
  | .error _ => .host

/-- A command word placed so that the next step takes it and runs it: first in its port's queue, that port's
turn first in the schedule, the port and the handler with no operation in progress. -/
def placeCommand (s : State) (w : Word) : State :=
  let a := portFor w
  let s := freeAgent (freeAgent s .isr) a
  { s with
    ports := s.ports.set a (⟨w, []⟩ :: s.ports.get a)
    sched := .run a :: s.sched }

end Sys2Proof.Machine
end

