-- ==== Sys2Proof/Machine/Step.lean ====
section
/-! DEFINITION. The step of the block and the placing of a command word. -/

namespace Sys2Proof.Machine

/-- One step: one turn of the schedule. -/
def step (s : State) : Host.Outcome State Fault Refusal := turn s

/-- The state with a command word placed where the next step takes its command (log 26). -/
def State.withFetchWord (s : State) (nbits w : Nat) : State :=
  placeCommand s (BitVec.ofNat 32 (w % 2 ^ nbits))

end Sys2Proof.Machine
end

