-- ==== Sys2Proof/Safety.lean ====
section
/-! DEFINITION. What the claims call a legal state: the ring invariant with what the operations in progress
hold (10_state.md R24, R33), the flow-control property with the bursts in progress (41_flow_control.md R158),
and the good final states (70_reset_and_hazards.md R335). All are Bools over plain data. -/

namespace Sys2Proof.Machine

/-! ## End of a run (70_reset_and_hazards.md R335) -/

def agents : List Agent := [.txt, .rxt, .isr, .tmr, .host]

/-- No agent is BUSY. -/
def quiescent (s : State) : Bool := agents.all fun a => s.run.get a != .busy

/-- Quiescent, no violation recorded, no agent halted, no timer pending. -/
def goodFinal (s : State) : Bool :=
  quiescent s && s.fault == none && (agents.all fun a => s.run.get a != .halted) && s.tmr == .idle

/-! ## When an operation executes, and what a ring holds -/

/-- The port accepts the operation, its agent is idle, and the channels it needs are constructed: by
30_encoding.md R96 it runs by its rule. -/
abbrev ready (i : Instr) (s : State) : Prop :=
  accepts s.issuer i = true ∧ s.run.get s.issuer = .idle ∧ needsConstruct i s = false

/-- `used(widx[ch], ridx[ch])` as a number. -/
def usedNow (s : State) (ch : Chan) : Nat := (usedOf (s.widx.get ch) (s.ridx.get ch)).toNat

/-- The byte of a ring that is popped when `ridx` has moved on by `k` (20_memory.md R62). -/
def ringByte (s : State) (ch : Chan) (k : Nat) : Byte :=
  s.memRead ch (slotOf (s.ridx.get ch + BitVec.ofNat 16 k) (s.cap.get ch))

/-- The bytes of a ring, oldest first. -/
def ringContent (s : State) (ch : Chan) : List Byte := (List.range (usedNow s ch)).map (ringByte s ch)

/-- How many bytes a channel has room for. -/
def roomNow (s : State) (ch : Chan) : Nat := (s.cap.get ch).toNat - usedNow s ch

/-- The bytes the device has taken, oldest first (43_thread_api.md R215); a trace is newest first. -/
def sentBytes : List EnvCall → List Byte
  | [] => []
  | .writeByteNonBlocking b true :: cs => sentBytes cs ++ [b]
  | .writeByteNonBlocking _ false :: cs => sentBytes cs
  | .pollPendingInterrupt _ :: cs | .rxReady _ :: cs | .txReady _ :: cs => sentBytes cs
  | .readByteNonBlocking _ :: cs | .checkAndClearErrors _ :: cs => sentBytes cs
  | .enableReceiveInterrupt :: cs | .disableReceiveInterrupt :: cs => sentBytes cs
  | .enableTransmitInterrupt :: cs | .disableTransmitInterrupt :: cs => sentBytes cs
  | .startOneShot _ :: cs | .stop :: cs => sentBytes cs

/-- The state after agent `a` has raised a violation, before its response (60_exceptions.md R281). -/
def afterViolation (s : State) (a : Agent) (code : ViolationCode) (ch : Chan) : State :=
  { s with
    fault := if s.fault = none then some ⟨code, ch, a⟩ else s.fault
    run := s.run.set a .halted }

/-- Accept an operation and perform `n` events of its agent with no other agent's between them. -/
def startThenEvents (i : Instr) (n : Nat) (s : State) : Host.Outcome State Fault Refusal :=
  match startOp i s with
  | .next t => agentEvents s.issuer n t
  | .fault f => .fault f
  | .refused r => .refused r

/-! ## Which operation a position and a caller belong to (operands left out) -/

/-- The operation that holds a labelled step. -/
def opOf : Pos → Instr
  | .push1 ch _ => .push ch 0
  | .push2 ch _ _ => .push ch 0
  | .push4 ch _ _ => .push ch 0
  | .push5 ch _ _ => .push ch 0
  | .pop1 ch => .pop ch
  | .pop2 ch _ => .pop ch
  | .pop4 ch _ => .pop ch
  | .pop5 ch _ _ => .pop ch
  | .peek1 ch => .peek ch
  | .peek2 ch _ => .peek ch
  | .peek4 ch _ => .peek ch
  | .violate .pushFull ch => .push ch 0
  | .violate .popEmpty ch => .pop ch
  | .violate .peekEmpty ch => .peek ch
  | .query1 .used ch => .used ch
  | .query1 .full ch => .isFull ch
  | .query1 .empty ch => .isEmpty ch
  | .query2 .used ch _ => .used ch
  | .query2 .full ch _ => .isFull ch
  | .query2 .empty ch _ => .isEmpty ch
  | .cap1 ch => .cap ch
  | .snap1 ch => .snap ch
  | .snap2 ch => .snap ch
  | .fcTxt1 => .fcTxt
  | .fcTxt2 _ => .fcTxt
  | .fcTxt3 => .fcTxt
  | .fcTxi1 => .fcTxi
  | .fcTxi2 _ => .fcTxi
  | .fcTxi3 _ => .fcTxi
  | .fcTxi4 => .fcTxi
  | .fcRxt1 => .fcRxt
  | .fcRxt2 _ => .fcRxt
  | .fcRxt3 => .fcRxt
  | .fcRxi1 => .fcRxi
  | .fcRxi2 _ => .fcRxi
  | .fcRxi3 _ => .fcRxi
  | .fcRxi4a => .fcRxi
  | .fcRxi4b => .fcRxi
  | .fcRxi4c => .fcRxi
  | .isr1 => .isr
  | .isr3 => .isr
  | .isr4 => .isr
  | .errChk1 => .errChk
  | .errChk2 _ => .errChk
  | .errChk3 => .errChk
  | .rxBurst2 => .rxBurst
  | .txBurst3 _ => .txBurst
  | .raise1 ch => .raise ch
  | .wait1 ch => .wait ch
  | .wait2 ch => .wait ch
  | .wreset1 ch => .wreset ch
  | .tarm1 => .tarm
  | .tstop1 => .tstop
  | .tfire1 => .tfire
  | .construct1 ch _ => .construct ch 0
  | .setup1 => .setup

/-- The composite operation a caller belongs to. -/
def callerOp : Caller → Instr
  | .isrErrChk => .isr
  | .isrRxBurst => .isr
  | .isrTxBurst => .isr
  | .rxBurstIsFull => .rxBurst
  | .rxBurstPush => .rxBurst
  | .rxBurstFc => .rxBurst
  | .txBurstIsEmpty => .txBurst
  | .txBurstPeek => .txBurst
  | .txBurstPop => .txBurst
  | .txBurstFc => .txBurst
  | .wrnbSnap _ => .wrnb 0
  | .wrnbIsFull _ _ => .wrnb 0
  | .wrnbPush _ _ => .wrnb 0
  | .wrnbFc _ _ => .wrnb 0
  | .writeWrnb _ _ => .write 0
  | .writeWait _ _ => .write 0
  | .rdnbSnap _ => .rdnb 0
  | .rdnbIsEmpty _ _ => .rdnb 0
  | .rdnbPop _ _ => .rdnb 0
  | .rdnbFc _ _ => .rdnb 0
  | .readRdnb _ => .read 0
  | .readWait _ => .read 0

/-- The operation a caller has called. -/
def calledOp : Caller → Instr
  | .isrErrChk => .errChk
  | .isrRxBurst => .rxBurst
  | .isrTxBurst => .txBurst
  | .rxBurstIsFull => .isFull .rx
  | .rxBurstPush => .push .rx 0
  | .rxBurstFc => .fcRxi
  | .txBurstIsEmpty => .isEmpty .tx
  | .txBurstPeek => .peek .tx
  | .txBurstPop => .pop .tx
  | .txBurstFc => .fcTxi
  | .wrnbSnap _ => .snap .tx
  | .wrnbIsFull _ _ => .isFull .tx
  | .wrnbPush _ _ => .push .tx 0
  | .wrnbFc _ _ => .fcTxt
  | .writeWrnb _ _ => .wrnb 0
  | .writeWait _ _ => .wait .tx
  | .rdnbSnap _ => .snap .rx
  | .rdnbIsEmpty _ _ => .isEmpty .rx
  | .rdnbPop _ _ => .pop .rx
  | .rdnbFc _ _ => .fcRxt
  | .readRdnb _ => .rdnb 0
  | .readWait _ => .wait .rx

/-- Each composite stands in the one that called it. -/
def chained : Instr → List Caller → Bool
  | _, [] => true
  | op, c :: cs => calledOp c == op && chained (callerOp c) cs

/-! ## The ring invariant (10_state.md R24) -/

def isFullNow (s : State) (ch : Chan) : Bool := fullAt (s.widx.get ch) (s.ridx.get ch) (s.cap.get ch)

def isEmptyNow (s : State) (ch : Chan) : Bool := emptyAt (s.widx.get ch) (s.ridx.get ch)

/-- Not constructed, or a power of two from 2 to 16384 (00_scope.md R6). -/
def capLegal (c : Index) : Bool := c == 0 || (powerOfTwo c && capInRange c)

/-- A legal capacity and `used ≤ cap`. -/
def ringOk (s : State) (ch : Chan) : Bool :=
  capLegal (s.cap.get ch) &&
  decide ((usedOf (s.widx.get ch) (s.ridx.get ch)).toNat ≤ (s.cap.get ch).toNat)

/-- One channel: the ring, storage in canonical form inside `0 .. cap-1` (20_memory.md R60), and its thread
PARKED exactly when its wake signal is (10_state.md R33), only once constructed. -/
def chanOk (s : State) (ch : Chan) : Bool :=
  ringOk s ch &&
  decide (Memory.wf (s.storage.get ch)) &&
  ((s.storage.get ch).all fun c => decide (c.1 < (s.cap.get ch).toNat)) &&
  ((s.wake.get ch == .parked) == (s.run.get (threadOf ch) == .parked)) &&
  (s.cap.get ch != 0 || s.wake.get ch != .parked)

/-- What the operation-local values of a position say of the counters and of the slot they are about. `inside`: the operation is part of a
composite, which has tested for room or for data (60_exceptions.md R282). -/
def posOk (s : State) (inside : Bool) : Pos → Bool
  | .push1 ch _ => !inside || !isFullNow s ch
  | .push2 ch _ w => w == s.widx.get ch && (!inside || !isFullNow s ch)
  | .push4 ch _ w => w == s.widx.get ch && !isFullNow s ch
  | .push5 ch b w =>
    w == s.widx.get ch && !isFullNow s ch && b == s.memRead ch (slotOf w (s.cap.get ch))
  | .pop1 ch => !inside || !isEmptyNow s ch
  | .pop2 ch r => r == s.ridx.get ch && (!inside || !isEmptyNow s ch)
  | .pop4 ch r => r == s.ridx.get ch && !isEmptyNow s ch
  | .pop5 ch r b =>
    r == s.ridx.get ch && !isEmptyNow s ch && b == s.memRead ch (slotOf r (s.cap.get ch))
  | .peek1 ch => !inside || !isEmptyNow s ch
  | .peek2 ch r => r == s.ridx.get ch && (!inside || !isEmptyNow s ch)
  | .peek4 ch r => r == s.ridx.get ch && !isEmptyNow s ch
  | .violate _ _ => !inside
  | .query2 .full ch w => !inside || w == s.widx.get ch
  | .query2 .empty ch w =>
    !inside ||
      decide ((usedOf w (s.ridx.get ch)).toNat ≤ (usedOf (s.widx.get ch) (s.ridx.get ch)).toNat)
  | .query2 .used _ _ => true
  | .rxBurst2 => !isFullNow s .rx
  | .txBurst3 b =>
    !isEmptyNow s .tx && b == s.memRead .tx (slotOf (s.ridx.get .tx) (s.cap.get .tx))
  | .query1 _ _ | .cap1 _ | .snap1 _ | .snap2 _ => true
  | .fcTxt1 | .fcTxt2 _ | .fcTxt3 | .fcTxi1 | .fcTxi2 _ | .fcTxi3 _ | .fcTxi4 => true
  | .fcRxt1 | .fcRxt2 _ | .fcRxt3 => true
  | .fcRxi1 | .fcRxi2 _ | .fcRxi3 _ | .fcRxi4a | .fcRxi4b | .fcRxi4c => true
  | .isr1 | .isr3 | .isr4 | .errChk1 | .errChk2 _ | .errChk3 => true
  | .raise1 _ | .wait1 _ | .wait2 _ | .wreset1 _ | .tarm1 | .tstop1 | .tfire1 => true
  | .construct1 _ _ | .setup1 => true

/-- An operation the agent's port accepts, over constructed channels (30_encoding.md R95, R96). -/
def permitted (s : State) (a : Agent) (i : Instr) : Bool := accepts a i && !needsConstruct i s

/-- An operation in progress is one that the agent's port accepts, each part called by the composite it stands
in. -/
def seqOk (s : State) (a : Agent) (q : Sequencer) : Bool :=
  permitted s a (opOf q.pos) &&
  (q.callers.all fun c => permitted s a (callerOp c)) &&
  chained (opOf q.pos) q.callers &&
  posOk s (!q.callers.isEmpty) q.pos

/-- An agent has an operation in progress exactly when it is BUSY or PARKED; PARKED it stands at the `WAIT.2`
of its own channel. -/
def agentOk (s : State) (a : Agent) : Bool :=
  match s.run.get a, s.seq.get a with
  | .idle, none => true
  | .halted, none => true
  | .busy, some q => seqOk s a q
  | .parked, some q =>
    seqOk s a q && ((q.pos == .wait2 .rx && a == .rxt) || (q.pos == .wait2 .tx && a == .txt))
  | .idle, some _ | .halted, some _ | .busy, none | .parked, none => false

/-- The ring invariant of the whole block, in both modes. -/
def ringInv (s : State) : Bool :=
  chanOk s .rx && chanOk s .tx && agents.all (agentOk s)

/-! ## Rights (10_state.md R25, 60_exceptions.md R296) -/

/-- From `s` to `t` agent `a` has written only what the table of R296 lets it write. `HOST` writes a channel's
counters, storage, latches and (for RX) the timer only by constructing it, so only while its capacity is 0
(10_state.md R39), and resets a wake signal to IDLE. -/
def writesAllowed (a : Agent) (s t : State) : Prop :=
  (∀ ch, t.cap.get ch ≠ s.cap.get ch → a = .host ∧ s.cap.get ch = 0) ∧
  (∀ ch, t.widx.get ch ≠ s.widx.get ch ∨ t.storage.get ch ≠ s.storage.get ch →
    a = producerOf ch ∨ (a = .host ∧ s.cap.get ch = 0)) ∧
  (∀ ch, t.ridx.get ch ≠ s.ridx.get ch → a = consumerOf ch ∨ (a = .host ∧ s.cap.get ch = 0)) ∧
  (∀ ch, t.snap.get ch ≠ s.snap.get ch → a = threadOf ch ∨ (a = .host ∧ s.cap.get ch = 0)) ∧
  (s.txie = false → t.txie = true → a = .txt) ∧
  (s.txie = true → t.txie = false → a = .isr) ∧
  (s.rxie = false → t.rxie = true → a = .rxt ∨ a = .host) ∧
  (s.rxie = true → t.rxie = false → a = .isr) ∧
  (∀ ch, t.wake.get ch ≠ s.wake.get ch →
    a = .isr ∨ (a = .tmr ∧ ch = .rx) ∨ a = threadOf ch ∨ (a = .host ∧ t.wake.get ch = .idle)) ∧
  (s.tmr = .idle → t.tmr = .armed → a = .isr) ∧
  (s.tmr = .armed → t.tmr = .idle → a = .isr ∨ a = .tmr ∨ (a = .host ∧ s.cap.rx = 0)) ∧
  (t.ovrCnt ≠ s.ovrCnt ∨ t.frmCnt ≠ s.frmCnt → a = .isr) ∧
  (t.fault ≠ s.fault → t.run.get a = .halted) ∧
  (∀ b, b ≠ a → t.run.get b ≠ s.run.get b →
    t.run.get b = .busy ∧ ∃ ch, b = threadOf ch ∧ s.wake.get ch = .parked) ∧
  (∀ b, b ≠ a → t.seq.get b = s.seq.get b)

/-! ## The flow-control property (41_flow_control.md R158), `PREEMPTIVE` mode -/

/-- Data in the TX ring: the transmit interrupt is on. -/
def txFlowOk (s : State) : Bool := isEmptyNow s .tx || s.txie

/-- Room in the RX ring: the receive interrupt is on. -/
def rxFlowOk (s : State) : Bool := isFullNow s .rx || s.rxie

/-- The longest thread burst for which the index-changed test is exact: with `cap ≤ 16384`, fewer than `2^16`
moves of the other side (70_reset_and_hazards.md R343). -/
def burstMax : Nat := 49151

/-- A TX burst with `pushed` bytes pushed since its `SNAP` and `left` to go: if the interrupt is off, the
policy at its end will see that. -/
def txBurstOk (s : State) (pushed left : Nat) : Bool :=
  let w0 := (s.snap.get .tx).snapW
  let r0 := (s.snap.get .tx).snapR
  s.widx.get .tx == w0 + BitVec.ofNat 16 pushed &&
  decide ((usedOf w0 r0).toNat ≤ (s.cap.get .tx).toNat) &&
  decide ((usedOf w0 r0).toNat + pushed =
    (usedOf (s.ridx.get .tx) r0).toNat + (usedOf (s.widx.get .tx) (s.ridx.get .tx)).toNat) &&
  decide (pushed + left ≤ burstMax) &&
  (s.txie || emptyAt w0 r0 || s.ridx.get .tx != r0)

/-- The mirror image for an RX burst whose `SNAP` latches `w0` and `r0`, with `popped` bytes popped. -/
def rxBurstFrom (s : State) (w0 r0 : Index) (popped left : Nat) : Bool :=
  s.ridx.get .rx == r0 + BitVec.ofNat 16 popped &&
  decide ((usedOf w0 r0).toNat ≤ (s.cap.get .rx).toNat) &&
  decide ((usedOf (s.widx.get .rx) w0).toNat + (usedOf w0 r0).toNat =
    (usedOf (s.widx.get .rx) (s.ridx.get .rx)).toNat + popped) &&
  decide (popped + left ≤ burstMax) &&
  (s.rxie || fullAt w0 r0 (s.cap.get .rx) || s.widx.get .rx != w0)

def rxBurstOk (s : State) (popped left : Nat) : Bool :=
  rxBurstFrom s (s.snap.get .rx).snapW (s.snap.get .rx).snapR popped left

/-- `TXT` at a position inside the composites `cs`: inside a burst (after its `SNAP`, before its `FC.TXT` has
decided) the burst property, everywhere else the flow-control property; no lone `PUSH`. -/
def txThreadOk (s : State) (p : Pos) : List Caller → Bool
  | .wrnbSnap rest :: _ =>
    txFlowOk s && decide (rest.length ≤ burstMax) &&
      (p != .snap2 .tx || (s.snap.get .tx).snapW == s.widx.get .tx)
  | .wrnbIsFull rest n :: _ => txBurstOk s n rest.length
  | .wrnbPush rest n :: _ => decide (0 < n) && txBurstOk s (n - 1) (rest.length + 1)
  | .wrnbFc _ n :: _ => p == .fcTxt3 || (txBurstOk s n 0 && (p == .fcTxt1 || p == .fcTxt2 (s.widx.get .tx)))
  | [] => txFlowOk s && opOf p != .push .tx 0
  | _ :: _ => txFlowOk s

/-- Between the loads of `FC.RXT`: `w1` is the write counter it loaded, which the handler may have moved since.
If the policy is about to leave a disabled interrupt off, the ring is full now. -/
def rxDecisionOk (s : State) (w1 : Index) (popped : Nat) : Bool :=
  let w0 := (s.snap.get .rx).snapW
  let r0 := (s.snap.get .rx).snapR
  let cap := s.cap.get .rx
  s.ridx.get .rx == r0 + BitVec.ofNat 16 popped &&
  decide ((usedOf w1 (s.ridx.get .rx)).toNat ≤ (usedOf (s.widx.get .rx) (s.ridx.get .rx)).toNat) &&
  (s.rxie || isFullNow s .rx || fullAt w0 r0 cap || w1 != w0)

/-- The mirror image for `RXT`; no lone `POP`. At `SNAP.2` the other side's counter is latched already and the
own one is about to be. -/
def rxThreadOk (s : State) (p : Pos) : List Caller → Bool
  | .rdnbSnap m :: _ =>
    rxFlowOk s && decide (m ≤ burstMax) &&
      (p != .snap2 .rx || rxBurstFrom s (s.snap.get .rx).snapW (s.ridx.get .rx) 0 m)
  | .rdnbIsEmpty m buf :: _ => decide (0 < m) && rxBurstOk s buf.length m
  | .rdnbPop m buf :: _ => rxBurstOk s buf.length (m + 1)
  | .rdnbFc _ buf :: _ =>
    match p with
    | .fcRxt1 => rxBurstOk s buf.length 0
    | .fcRxt2 w1 => rxDecisionOk s w1 buf.length
    | .fcRxt3 => true
    | _ => false
  | [] => rxFlowOk s && opOf p != .pop .rx
  | _ :: _ => rxFlowOk s

/-- What a `WRITE` or `READ` in progress still has to move fits one exact burst. -/
def callerBounded : Caller → Bool
  | .writeWrnb _ rest => decide (rest.length ≤ burstMax)
  | .writeWait _ rest => decide (rest.length ≤ burstMax)
  | .readRdnb len => decide (len ≤ burstMax)
  | .readWait len => decide (len ≤ burstMax)
  | _ => true

/-- What the handler holds between the loads and the disable of its policy; nothing else moves meanwhile. -/
def isrFlowOk (s : State) : Pos → Bool
  | .fcTxi2 w1 => w1 == s.widx.get .tx
  | .fcTxi3 _ => isEmptyNow s .tx
  | .fcRxi2 w1 => w1 == s.widx.get .rx
  | .fcRxi3 _ => isFullNow s .rx
  | _ => true

/-- Commands still to come at the thread ports: no lone `PUSH` or `POP`, lengths that fit one exact burst. -/
def txCommandOk (c : Command) : Bool :=
  match decode c.word with
  | .ok (.push _ _) => false
  | .ok (.wrnb len) => decide (len ≤ burstMax)
  | .ok (.write len) => decide (len ≤ burstMax)
  | _ => true

def rxCommandOk (c : Command) : Bool :=
  match decode c.word with
  | .ok (.pop _) => false
  | .ok (.rdnb len) => decide (len ≤ burstMax)
  | .ok (.read len) => decide (len ≤ burstMax)
  | _ => true

/-- The invariant behind R158: `PREEMPTIVE` mode, both channels constructed, no power-on reset to come, thread
agents that move bytes only by the thread-facing calls. -/
def flowInv (s : State) : Bool :=
  ringInv s &&
  s.mode == .preemptive &&
  s.cap.get .rx != 0 && s.cap.get .tx != 0 &&
  (s.sched.all fun t => t != .powerOn) &&
  (s.ports.txt.all txCommandOk) && (s.ports.rxt.all rxCommandOk) &&
  (match s.seq.get .txt with
    | none => txFlowOk s
    | some q => txThreadOk s q.pos q.callers && q.callers.all callerBounded) &&
  (match s.seq.get .rxt with
    | none => rxFlowOk s
    | some q => rxThreadOk s q.pos q.callers && q.callers.all callerBounded) &&
  (match s.seq.get .isr with
    | none => true
    | some q => isrFlowOk s q.pos)

/-- `TXT` is between its `SNAP` and the end of the `FC.TXT` of the same burst. -/
def inTxBurst (s : State) : Bool :=
  match s.seq.get .txt with
  | some ⟨_, .wrnbIsFull _ _ :: _⟩ => true
  | some ⟨_, .wrnbPush _ _ :: _⟩ => true
  | some ⟨_, .wrnbFc _ _ :: _⟩ => true
  | _ => false

/-- `RXT` is between its `SNAP` and the end of the `FC.RXT` of the same burst. -/
def inRxBurst (s : State) : Bool :=
  match s.seq.get .rxt with
  | some ⟨_, .rdnbIsEmpty _ _ :: _⟩ => true
  | some ⟨_, .rdnbPop _ _ :: _⟩ => true
  | some ⟨_, .rdnbFc _ _ :: _⟩ => true
  | _ => false

end Sys2Proof.Machine
end

