-- ==== Sys2Proof/Certificates/Slice0/Obligations.lean ====
section
/-! DEFINITION. The statements for the provers. Each cites the rules of spec/ it formalises or rests on. -/

open Sys2Proof Sys2Proof.Machine

/-! ## Encoding -/

/-- R91 to R93: the encoder drops no operand and the decoder reads each one back. -/
def Obligations.DecodeOfEncode : Prop :=
  ∀ i : Instr, i.wellFormed = true → decode (encode i) = .ok i

/-- R91 to R93, R96: an accepted word is the encoding of the operation it decodes to. -/
def Obligations.EncodeOfDecode : Prop :=
  ∀ (w : Word) (i : Instr), decode w = .ok i → i.wellFormed = true ∧ encode i = w

/-- R94: the match and mask of each of the 28 rows select exactly the words of its operation, and no two rows
overlap. -/
def Obligations.MatchMaskSelectsOperation : Prop :=
  (∀ w : Word, ∀ row ∈ opcodeRows,
    row.selects w = true ↔ ∃ i, decode w = .ok i ∧ i.mnemonic = row.mnemonic) ∧
  (∀ (w : Word) (i : Instr), decode w = .ok i → ∃ row ∈ opcodeRows, row.selects w = true) ∧
  opcodeRows.Pairwise (fun p q => ∀ w, ¬(p.selects w = true ∧ q.selects w = true)) ∧
  opcodeRows.length = 28

/-- R98: the worked encodings and responses. -/
def Obligations.WorkedEncodings : Prop :=
  (decode 0x00010041 = .ok (.push .tx 0x41) ∧ decode 0x00000041 = .ok (.push .rx 0x41) ∧
    decode 0x01010000 = .ok (.pop .tx) ∧ decode 0x01000000 = .ok (.pop .rx) ∧
    decode 0x02010000 = .ok (.peek .tx) ∧ decode 0x03000000 = .ok (.used .rx) ∧
    decode 0x04010000 = .ok (.isFull .tx) ∧ decode 0x05000000 = .ok (.isEmpty .rx) ∧
    decode 0x06010000 = .ok (.cap .tx) ∧ decode 0x10010000 = .ok (.snap .tx)) ∧
  (decode 0x11010000 = .ok .fcTxt ∧ decode 0x12010000 = .ok .fcTxi ∧ decode 0x13000000 = .ok .fcRxt ∧
    decode 0x14000000 = .ok .fcRxi ∧ decode 0x20000000 = .ok .isr ∧ decode 0x21000000 = .ok .errChk ∧
    decode 0x22000000 = .ok .rxBurst ∧ decode 0x23010000 = .ok .txBurst) ∧
  (decode 0x30010014 = .ok (.wrnb 20) ∧ decode 0x31010014 = .ok (.write 20) ∧
    decode 0x32000010 = .ok (.rdnb 16) ∧ decode 0x33000010 = .ok (.read 16) ∧
    decode 0x40000000 = .ok (.raise .rx) ∧ decode 0x41010000 = .ok (.wait .tx) ∧
    decode 0x42000000 = .ok (.wreset .rx) ∧ decode 0x50000000 = .ok .tarm ∧
    decode 0x51000000 = .ok .tstop ∧ decode 0x52000000 = .ok .tfire ∧
    decode 0x60000010 = .ok (.construct .rx 16) ∧ decode 0x60010010 = .ok (.construct .tx 16) ∧
    decode 0x61000000 = .ok .setup) ∧
  ((Reply.okVal 3).word = 0x00000003 ∧ Reply.wouldBlock.word = 0x10000000 ∧
    (Reply.faultOf .pushFull).word = 0x20000001 ∧ (Reply.rejected 1).word = 0x30000001 ∧
    Reply.illegal.word = 0x40000000)

/-- R97: the fields of every response word; `STATUS` 5 to 15 is never produced. -/
def Obligations.ResponseWordFields : Prop :=
  ∀ r : Reply,
    r.word.extractLsb' 28 4 = r.status.number ∧ r.word.extractLsb' 16 12 = 0 ∧
    r.word.extractLsb' 0 16 = r.value ∧ r.status.number.toNat ≤ 4

/-! ## The step, the schedule, reset -/

/-- R90, R96, R70: a turn of an agent with no operation in progress takes the first command of its port; a `run`
turn is `exec` of the decoded operation, an `event` turn accepts it and stops before its first event. A turn of
a BUSY agent is one event of its operation. The turn, the queue and the two kinds of turn are the model's
(log 1, 2, 3). -/
def Obligations.StepRunsDecodedCommand : Prop :=
  (∀ (s : State) (a : Agent) (c : Command) (rest : List Command) (ts : List Turn) (i : Instr),
    isrHolds s = false → (s.run.get a = .idle ∨ s.run.get a = .halted) →
    s.ports.get a = c :: rest → decode c.word = .ok i →
    (s.sched = .run a :: ts → step s = exec i (takeCommand { s with sched := ts } a c rest)) ∧
    (s.sched = .event a :: ts → step s = startOp i (takeCommand { s with sched := ts } a c rest))) ∧
  (∀ (s : State) (a : Agent) (ts : List Turn),
    isrHolds s = false → s.run.get a = .busy → (s.sched = .run a :: ts ∨ s.sched = .event a :: ts) →
    step s = agentEvent a { s with sched := ts })

/-- R242, R330: a parked agent performs no event, and with no turn and no handler operation in progress
nothing moves (log 3). -/
def Obligations.ParkedAgentPerformsNoEvent : Prop :=
  (∀ (s : State) (a : Agent) (ts : List Turn),
    isrHolds s = false → s.run.get a = .parked → (s.sched = .run a :: ts ∨ s.sched = .event a :: ts) →
    step s = .next { s with sched := ts }) ∧
  (∀ s : State, isrHolds s = false → s.sched = [] → step s = .next s)

/-- R73 (a): in `PREEMPTIVE` mode, while `ISR` is inside an operation every step is its event; no other agent
performs one, no command is taken, and the only change to another agent is the waiter of a parked signal made
runnable. R73 (a) names `TXT`, `RXT` and `TMR`; that `HOST` is held too, and that power-on reset is not, is the
model's reading of "a contiguous stretch of the total order" (log 4). The schedule is the model's (log 3). -/
def Obligations.PreemptiveHandlerIsContiguous : Prop :=
  ∀ s : State, s.mode = .preemptive → s.run.get .isr = .busy → (∀ ts, s.sched ≠ .powerOn :: ts) →
    step s = agentEvent .isr s ∧
    ∀ t, step s = .next t →
      t.ports = s.ports ∧ t.sched = s.sched ∧
      ∀ a, a ≠ .isr → t.seq.get a = s.seq.get a ∧
        (t.run.get a = s.run.get a ∨
          (t.run.get a = .busy ∧ ∃ ch, a = threadOf ch ∧ s.wake.get ch = .parked))

/-- R70, R72, R185: performing an operation's labelled events one by one, with no other agent's event between
them, is the operation's meaning. That an operation has these two forms is the model's (log 2), as is where
`exec` of `ISR` stops, possibly still BUSY at `ISR.1` (log 13). -/
def Obligations.EventRunEqualsMeaning : Prop :=
  ∀ (i : Instr) (s : State), i.wellFormed = true → s.run.get s.issuer = .idle → s.seq.get s.issuer = none →
    ∃ n, startThenEvents i n s = exec i s

/-- R341: in `PARALLEL` mode there is a run, from a state with the flow-control property and no operation in
progress, that ends with data in the TX ring, the transmit interrupt off and nobody moving. -/
def Obligations.ParallelModeLosesReenable : Prop :=
  ∃ (s t : State) (k : Nat),
    s.mode = .parallel ∧ ringInv s = true ∧ txFlowOk s = true ∧ s.seq = ⟨none, none, none, none, none⟩ ∧
    s.fault = none ∧ (s.sched.all fun u => u != .powerOn) = true ∧ s.ports.txt.all txCommandOk = true ∧
    Sys2Proof.core.run k s = .next t ∧
    t.seq = ⟨none, none, none, none, none⟩ ∧ t.fault = none ∧ usedNow t .tx = 1 ∧ t.txie = false

/-- R39, R330: the values of the state after power-on reset. That its step is itself rests on the model's empty
queues and empty schedule (log 1, 3); that power-on reset in a run is a turn that gives the same values again is
the model's (log 15). -/
def Obligations.PowerOnResetState : Prop :=
  (State.reset.cap = ⟨0, 0⟩ ∧ State.reset.widx = ⟨0, 0⟩ ∧ State.reset.ridx = ⟨0, 0⟩ ∧
    State.reset.snap = ⟨⟨0, 0⟩, ⟨0, 0⟩⟩ ∧ State.reset.ovrCnt = 0 ∧ State.reset.frmCnt = 0 ∧
    State.reset.wake = ⟨.idle, .idle⟩ ∧ State.reset.tmr = .idle ∧ State.reset.rxie = false ∧
    State.reset.txie = false ∧ State.reset.fault = none ∧
    State.reset.run = ⟨.idle, .idle, .idle, .idle, .idle⟩) ∧
  step State.reset = .next State.reset ∧
  ∀ (s : State) (ts : List Turn), s.sched = .powerOn :: ts →
    ∃ t, step s = .next t ∧ t.cap = ⟨0, 0⟩ ∧ t.widx = ⟨0, 0⟩ ∧ t.ridx = ⟨0, 0⟩ ∧
      t.snap = ⟨⟨0, 0⟩, ⟨0, 0⟩⟩ ∧ t.ovrCnt = 0 ∧ t.frmCnt = 0 ∧ t.wake = ⟨.idle, .idle⟩ ∧ t.tmr = .idle ∧
      t.rxie = false ∧ t.txie = false ∧ t.fault = none ∧ t.run = ⟨.idle, .idle, .idle, .idle, .idle⟩ ∧
      t.seq = ⟨none, none, none, none, none⟩ ∧ t.storage = ⟨[], []⟩

/-- R90, R95 (the placing is the model's, log 26): a placed command word is what the next step runs, at a port
that accepts it, on the block's state as it was. -/
def Obligations.PlacedWordRunsNext : Prop :=
  ∀ (s : State) (w : Word) (i : Instr), decode w = .ok i →
    ∃ u, step (s.withFetchWord 32 w.toNat) = exec i u ∧ accepts u.issuer i = true ∧ u.payload = [] ∧
      (u.run.get u.issuer = .idle ∨ u.run.get u.issuer = .halted) ∧
      u.cap = s.cap ∧ u.storage = s.storage ∧ u.widx = s.widx ∧ u.ridx = s.ridx ∧ u.tmr = s.tmr ∧
      u.rxie = s.rxie ∧ u.txie = s.txie ∧ u.ovrCnt = s.ovrCnt ∧ u.frmCnt = s.frmCnt ∧ u.fault = s.fault ∧
      u.snap = s.snap ∧ u.mode = s.mode ∧ u.dev = s.dev ∧ u.trace = s.trace ∧ u.responses = s.responses

/-! ## What a port answers (R96) -/

/-- R288, R96 (1): an operation its port does not accept, and a word that matches no operation or has a
must-be-zero bit set, answer `ILLEGAL` (status 4) and change no state of the block. The second clause writes the
model's own fields: the turn and the command are used up (log 1, 3), port and data stream are held in `issuer`
and `payload` (log 23), and the stream is dropped with the rejected command (log 27). -/
def Obligations.IllegalCommandChangesNothing : Prop :=
  (∀ (i : Instr) (s : State), accepts s.issuer i = false →
    exec i s = .next { s with responses := ⟨s.issuer, 0x40000000, []⟩ :: s.responses }) ∧
  (∀ (s : State) (a : Agent) (c : Command) (rest : List Command) (ts : List Turn) (e : DecodeError),
    isrHolds s = false → (s.run.get a = .idle ∨ s.run.get a = .halted) →
    (s.sched = .run a :: ts ∨ s.sched = .event a :: ts) → s.ports.get a = c :: rest →
    decode c.word = .error e →
    ∃ t, step s = .next t ∧
      t = { s with
        sched := ts, ports := s.ports.set a rest, issuer := a, payload := c.data
        responses := ⟨a, 0x40000000, []⟩ :: s.responses })

/-- R96 (2), R283: every command at a halted port answers `FAULT` with the stored code and changes nothing. -/
def Obligations.HaltedPortAnswersStoredCode : Prop :=
  ∀ (i : Instr) (s : State) (v : Violation),
    accepts s.issuer i = true → s.run.get s.issuer = .halted → s.fault = some v →
    exec i s =
      .next { s with
        responses := ⟨s.issuer, 0x20000000 ||| v.code.number.setWidth 32, []⟩ :: s.responses }

/-- R96 (3), R332: an operation over a channel that is not constructed answers `REJECTED 4` and changes
nothing. -/
def Obligations.UnconstructedChannelRejected : Prop :=
  ∀ (i : Instr) (s : State) (ch : Chan),
    accepts s.issuer i = true → s.run.get s.issuer ≠ .halted → ch ∈ channelsNeeded i → s.cap.get ch = 0 →
    exec i s = .next { s with responses := ⟨s.issuer, 0x30000004, []⟩ :: s.responses }

/-- R25, R72: one agent runs one operation at a time; a second one handed to it has no meaning and is refused
by name (log 10). -/
def Obligations.SecondOperationAtBusyPortRefused : Prop :=
  ∀ (i : Instr) (s : State),
    accepts s.issuer i = true → needsConstruct i s = false →
    (s.run.get s.issuer = .busy ∨ s.run.get s.issuer = .parked) →
    exec i s = .refused .portInUse

/-! ## Ring primitives -/

/-- R121: with room, `PUSH` stores its byte in the slot of the write counter, advances that counter by one
modulo `2^16`, and answers `OK 0`. -/
def Obligations.PushStoresAndAdvances : Prop :=
  ∀ (ch : Chan) (b : Byte) (s : State), ready (.push ch b) s →
    (s.widx.get ch - s.ridx.get ch).toNat < (s.cap.get ch).toNat →
    ∃ t, exec (.push ch b) s = .next t ∧
      t.memRead ch ((s.widx.get ch &&& (s.cap.get ch - 1)).toNat) = b ∧
      t.widx = s.widx.set ch (s.widx.get ch + 1) ∧ t.fault = s.fault ∧ t.run = s.run ∧
      t.responses = ⟨s.issuer, 0, []⟩ :: s.responses

/-- R122: with data, `POP` answers the byte in the slot of the read counter and advances that counter by one
modulo `2^16`. -/
def Obligations.PopReturnsByteAndAdvances : Prop :=
  ∀ (ch : Chan) (s : State), ready (.pop ch) s → s.widx.get ch ≠ s.ridx.get ch →
    exec (.pop ch) s =
      .next { s with
        ridx := s.ridx.set ch (s.ridx.get ch + 1)
        responses :=
          ⟨s.issuer, (s.memRead ch ((s.ridx.get ch &&& (s.cap.get ch - 1)).toNat)).setWidth 32, []⟩ ::
            s.responses }

/-- R123: with data, `PEEK` answers the byte in the slot of the read counter and writes nothing; the `POP` that
follows answers the same word. -/
def Obligations.PeekReturnsByteAndPopAgrees : Prop :=
  ∀ (ch : Chan) (s : State), ready (.peek ch) s → s.widx.get ch ≠ s.ridx.get ch →
    ∃ (word : Word) (t u : State),
      word = (s.memRead ch ((s.ridx.get ch &&& (s.cap.get ch - 1)).toNat)).setWidth 32 ∧
      exec (.peek ch) s = .next t ∧
      t = { s with responses := ⟨s.issuer, word, []⟩ :: s.responses } ∧
      exec (.pop ch) t = .next u ∧ u.responses = ⟨s.issuer, word, []⟩ :: t.responses

/-- R281: the three contract violations, their codes and conditions, and what they do: `FAULT` keeps the
first, the agent is halted, the operation and the composites it stands in end with `FAULT` and the code, and
nothing else changes. -/
def Obligations.ContractViolationHaltsAgent : Prop :=
  (∀ (ch : Chan) (b : Byte) (s : State), ready (.push ch b) s →
    (s.cap.get ch).toNat ≤ (s.widx.get ch - s.ridx.get ch).toNat →
    exec (.push ch b) s =
      .next { afterViolation s s.issuer .pushFull ch with
        responses := ⟨s.issuer, 0x20000001, []⟩ :: s.responses }) ∧
  (∀ (ch : Chan) (s : State), ready (.pop ch) s → s.widx.get ch = s.ridx.get ch →
    exec (.pop ch) s =
      .next { afterViolation s s.issuer .popEmpty ch with
        responses := ⟨s.issuer, 0x20000002, []⟩ :: s.responses }) ∧
  (∀ (ch : Chan) (s : State), ready (.peek ch) s → s.widx.get ch = s.ridx.get ch →
    exec (.peek ch) s =
      .next { afterViolation s s.issuer .peekEmpty ch with
        responses := ⟨s.issuer, 0x20000003, []⟩ :: s.responses }) ∧
  (∀ (a : Agent) (code : ViolationCode) (ch : Chan) (cs : List Caller) (s : State),
    s.seq.get a = some ⟨.violate code ch, cs⟩ →
    agentEvent a s =
      .next { afterViolation s a code ch with
        seq := s.seq.set a none
        responses := ⟨a, 0x20000000 ||| code.number.setWidth 32, []⟩ :: s.responses }) ∧
  (∀ (a : Agent) (ch : Chan) (b : Byte) (w : Index) (cs : List Caller) (s : State),
    s.seq.get a = some ⟨.push2 ch b w, cs⟩ →
    (s.cap.get ch).toNat ≤ (w - s.ridx.get ch).toNat →
    agentEvent a s = .next { s with seq := s.seq.set a (some ⟨.violate .pushFull ch, cs⟩) }) ∧
  (∀ (a : Agent) (ch : Chan) (cs : List Caller) (s : State),
    (s.seq.get a = some ⟨.pop2 ch (s.widx.get ch), cs⟩ →
      agentEvent a s = .next { s with seq := s.seq.set a (some ⟨.violate .popEmpty ch, cs⟩) }) ∧
    (s.seq.get a = some ⟨.peek2 ch (s.widx.get ch), cs⟩ →
      agentEvent a s = .next { s with seq := s.seq.set a (some ⟨.violate .peekEmpty ch, cs⟩) }))

/-- R124 to R127: `USED` answers the wrapping difference, `ISFULL` and `ISEMPTY` answer 1 or 0, `CAP` the
capacity; nothing else changes. -/
def Obligations.QueriesAnswerFromCounters : Prop :=
  ∀ (ch : Chan) (s : State),
    (ready (.used ch) s → exec (.used ch) s =
      .next { s with
        responses := ⟨s.issuer, (s.widx.get ch - s.ridx.get ch).setWidth 32, []⟩ :: s.responses }) ∧
    (ready (.isFull ch) s → exec (.isFull ch) s =
      .next { s with
        responses :=
          ⟨s.issuer, if (s.cap.get ch).toNat ≤ (s.widx.get ch - s.ridx.get ch).toNat then 1 else 0, []⟩ ::
            s.responses }) ∧
    (ready (.isEmpty ch) s → exec (.isEmpty ch) s =
      .next { s with
        responses := ⟨s.issuer, if s.widx.get ch = s.ridx.get ch then 1 else 0, []⟩ :: s.responses }) ∧
    (ready (.cap ch) s → exec (.cap ch) s =
      .next { s with responses := ⟨s.issuer, (s.cap.get ch).setWidth 32, []⟩ :: s.responses })

/-- R62, R65, R66: a ring is a first-in first-out queue, for whole operations and, whatever the interleaving and
in both modes, event by event (R67, R74). Whole: `PUSH` appends, `PEEK` shows the head, `POP` removes it, the
other ring is untouched, and `USED` is the length. Events, from every legal state: only `PUSH.5` and `POP.5`
change the content of a ring. `PUSH.4` stores the byte and publishes nothing; `PUSH.5` appends exactly that byte;
`POP.5` drops the head, which is the byte it answers or adds to the buffer of `RDNB`; `PEEK.4` answers the head,
and `TXBURST.3` hands the head to the device. -/
def Obligations.RingIsFifoQueue : Prop :=
  (∀ (ch : Chan) (s : State), ringOk s ch = true →
    (ringContent s ch).length = usedNow s ch ∧
    (∀ b, ready (.push ch b) s → usedNow s ch < (s.cap.get ch).toNat →
      ∃ t, exec (.push ch b) s = .next t ∧ ringContent t ch = ringContent s ch ++ [b] ∧
        ∀ d, d ≠ ch → ringContent t d = ringContent s d) ∧
    (ready (.pop ch) s → usedNow s ch ≠ 0 →
      ∃ x t, exec (.pop ch) s = .next t ∧ ringContent s ch = x :: ringContent t ch ∧
        t.responses = ⟨s.issuer, x.setWidth 32, []⟩ :: s.responses ∧
        ∀ d, d ≠ ch → ringContent t d = ringContent s d) ∧
    (ready (.peek ch) s → usedNow s ch ≠ 0 →
      ∃ x t, exec (.peek ch) s = .next t ∧ (ringContent s ch).head? = some x ∧
        t.responses = ⟨s.issuer, x.setWidth 32, []⟩ :: s.responses ∧
        ∀ d, ringContent t d = ringContent s d)) ∧
  (∀ (a : Agent) (q : Sequencer) (s t : State) (ch : Chan),
    ringInv s = true → s.run.get a = .busy → s.seq.get a = some q → agentEvent a s = .next t →
    ((∀ b w, q.pos ≠ .push5 ch b w) → (∀ r b, q.pos ≠ .pop5 ch r b) →
      ringContent t ch = ringContent s ch) ∧
    (∀ b w, q.pos = .push4 ch b w →
      t.memRead ch (slotOf (s.widx.get ch) (s.cap.get ch)) = b ∧ t.widx = s.widx ∧
      t.seq.get a = some ⟨.push5 ch b w, q.callers⟩) ∧
    (∀ b w, q.pos = .push5 ch b w →
      ringContent t ch = ringContent s ch ++ [b] ∧ t.storage = s.storage) ∧
    (∀ r b, q.pos = .pop5 ch r b →
      ringContent s ch = b :: ringContent t ch ∧
      (q.callers = [] → t.responses = ⟨a, b.setWidth 32, []⟩ :: s.responses) ∧
      (∀ buf cs, q.callers = .rdnbPop 0 buf :: cs →
        t.seq.get a = some ⟨.fcRxt1, .rdnbFc true (buf ++ [b]) :: cs⟩) ∧
      (∀ m buf cs, q.callers = .rdnbPop (m + 1) buf :: cs →
        t.seq.get a = some ⟨.query1 .empty .rx, .rdnbIsEmpty (m + 1) (buf ++ [b]) :: cs⟩)) ∧
    (∀ r, q.pos = .peek4 ch r →
      ∃ x, (ringContent s ch).head? = some x ∧
        (q.callers = [] → t.responses = ⟨a, x.setWidth 32, []⟩ :: s.responses) ∧
        (∀ cs, q.callers = .txBurstPeek :: cs → t.seq.get a = some ⟨.txBurst3 x, cs⟩)) ∧
    (∀ b, q.pos = .txBurst3 b →
      (ringContent s .tx).head? = some b ∧ ∃ ok, t.trace = .writeByteNonBlocking b ok :: s.trace))

/-! ## Flow control -/

/-- R152: `SNAP` latches both counters of its channel for the thread of that channel. -/
def Obligations.SnapLatchesCounters : Prop :=
  ∀ (ch : Chan) (s : State), ready (.snap ch) s →
    exec (.snap ch) s =
      .next { s with
        snap := s.snap.set ch ⟨s.widx.get ch, s.ridx.get ch⟩
        responses := ⟨s.issuer, 0, []⟩ :: s.responses }

/-- R151, R153, R155: `FC.TXT` enables exactly when the ring is non-empty now and was empty at the snapshot or
the read counter has changed since; `FC.RXT` exactly when the ring is not full now and was full or the write
counter has changed. Neither disables. -/
def Obligations.ThreadPolicyEnables : Prop :=
  (∀ s : State, ready .fcTxt s →
    exec .fcTxt s =
      .next (if s.widx.tx ≠ s.ridx.tx ∧ (s.snap.tx.snapW = s.snap.tx.snapR ∨ s.ridx.tx ≠ s.snap.tx.snapR)
        then { s with
          txie := true
          trace := .enableTransmitInterrupt :: s.trace
          responses := ⟨s.issuer, 0, []⟩ :: s.responses }
        else { s with responses := ⟨s.issuer, 0, []⟩ :: s.responses })) ∧
  (∀ s : State, ready .fcRxt s →
    exec .fcRxt s =
      .next (if (s.widx.rx - s.ridx.rx).toNat < s.cap.rx.toNat ∧
          (s.cap.rx.toNat ≤ (s.snap.rx.snapW - s.snap.rx.snapR).toNat ∨ s.widx.rx ≠ s.snap.rx.snapW)
        then { s with
          rxie := true
          trace := .enableReceiveInterrupt :: s.trace
          responses := ⟨s.issuer, 0, []⟩ :: s.responses }
        else { s with responses := ⟨s.issuer, 0, []⟩ :: s.responses }))

/-- R151, R154: `FC.TXI` disables exactly on an empty ring and raises exactly at or below half: a parked writer
is made runnable, an idle signal stays raised. -/
def Obligations.TransmitHandlerPolicy : Prop :=
  ∀ s : State, ready .fcTxi s →
    ∃ t, exec .fcTxi s = .next t ∧
      t.txie = (s.txie && decide (s.widx.tx ≠ s.ridx.tx)) ∧
      t.trace = (if s.widx.tx = s.ridx.tx then .disableTransmitInterrupt :: s.trace else s.trace) ∧
      t.wake = (if usedNow s .tx ≤ s.cap.tx.toNat / 2
        then s.wake.set .tx (if s.wake.tx = .parked then .idle else .raised) else s.wake) ∧
      t.run = (if usedNow s .tx ≤ s.cap.tx.toNat / 2 ∧ s.wake.tx = .parked
        then s.run.set .txt .busy else s.run) ∧
      t.responses = ⟨s.issuer, 0, []⟩ :: s.responses

/-- R151, R156: `FC.RXI` disables exactly on a full ring; at or above half it stops the timer and raises, below
half and non-empty it arms the timer, empty it leaves both alone. -/
def Obligations.ReceiveHandlerPolicy : Prop :=
  ∀ s : State, ready .fcRxi s →
    ∃ t, exec .fcRxi s = .next t ∧
      t.rxie = (s.rxie && decide (usedNow s .rx < s.cap.rx.toNat)) ∧
      (s.cap.rx.toNat / 2 ≤ usedNow s .rx →
        t.tmr = .idle ∧ t.wake = s.wake.set .rx (if s.wake.rx = .parked then .idle else .raised) ∧
        t.run = (if s.wake.rx = .parked then s.run.set .rxt .busy else s.run)) ∧
      (usedNow s .rx < s.cap.rx.toNat / 2 → 0 < usedNow s .rx →
        t.tmr = .armed ∧ t.wake = s.wake ∧ t.run = s.run) ∧
      (usedNow s .rx < s.cap.rx.toNat / 2 → usedNow s .rx = 0 →
        t.tmr = s.tmr ∧ t.wake = s.wake ∧ t.run = s.run) ∧
      t.responses = ⟨s.issuer, 0, []⟩ :: s.responses

/-- R157: evaluating the policy twice with no counter change between decides the same both times: the second
evaluation leaves the enables as the first left them, `FC.TXT` and `FC.RXT` leave the latches alone, and for
`FC.RXI` the second leaves the timer alone and, unless a waiter consumed the first raise, the wake signal. -/
def Obligations.FlowReevaluationIdempotent : Prop :=
  (∀ i ∈ ([.fcTxt, .fcTxi, .fcRxt, .fcRxi] : List Instr), ∀ s : State, ready i s →
    ∃ t u, exec i s = .next t ∧ exec i t = .next u ∧ u.txie = t.txie ∧ u.rxie = t.rxie ∧ t.snap = s.snap ∧
      u.snap = s.snap ∧ t.widx = s.widx ∧ t.ridx = s.ridx) ∧
  (∀ s : State, ready .fcTxt s → ∃ t, exec .fcTxt s = .next t ∧
    fcTxtDecides t t.widx.tx t.ridx.tx = fcTxtDecides s s.widx.tx s.ridx.tx) ∧
  (∀ s : State, ready .fcRxt s → ∃ t, exec .fcRxt s = .next t ∧
    fcRxtDecides t t.widx.rx t.ridx.rx = fcRxtDecides s s.widx.rx s.ridx.rx) ∧
  (∀ s : State, ready .fcRxi s →
    ∃ t u, exec .fcRxi s = .next t ∧ exec .fcRxi t = .next u ∧ u.tmr = t.tmr ∧
      (s.wake.rx ≠ .parked → u.wake = t.wake))

/-! ## Interrupt handler -/

/-- R180, R294: the handler returns at the first poll that is not pending, and only there; entered with nothing
pending it makes one device call and has no other effect. Third clause: `exec` of `ISR` gives a next state from
every ready state, in which the handler has returned or is still BUSY at `ISR.1`. That it stops there, after the
queued polls and one more, is the model's (log 13); a device that reports pending for ever keeps the handler
running (R344). -/
def Obligations.HandlerReturnsWhenNotPending : Prop :=
  (∀ (s : State) (ps : List Bool), ready .isr s → s.dev.poll = false :: ps →
    exec .isr s =
      .next { s with
        dev := { s.dev with poll := ps }
        trace := .pollPendingInterrupt false :: s.trace
        responses := ⟨s.issuer, 0, []⟩ :: s.responses }) ∧
  (∀ (s : State) (pre ps : List Bool), ready .isr s → s.dev.poll = pre ++ false :: ps →
    (∀ p ∈ pre, p = true) →
    ∃ t, exec .isr s = .next t ∧ t.dev.poll = ps ∧ t.run.get .isr = .idle ∧ t.fault = s.fault ∧
      t.responses = ⟨s.issuer, 0, []⟩ :: s.responses) ∧
  (∀ s : State, ready .isr s →
    ∃ t, exec .isr s = .next t ∧ t.fault = s.fault ∧
      ((t.run.get .isr = .idle ∧ t.responses = ⟨s.issuer, 0, []⟩ :: s.responses) ∨
        (t.run.get .isr = .busy ∧ t.seq.get .isr = some ⟨.isr1, []⟩ ∧ t.responses = s.responses)))

/-- R180 to R183, R154, R156: one pending iteration, whatever the two ready answers are. It counts the error
flags. If `rxReady` (`rr`) it moves `n` bytes into the RX ring, until the device is dry or the ring is full, and
runs the receive policy; if not, the RX channel, `RXIE` and the timer stay as they are. If `txReady` (`tr`) it
hands the `m` oldest TX bytes to the device, until it refuses one or the ring is empty, and runs the transmit
policy; if not, the TX channel and `TXIE` stay as they are. Then it returns. -/
def Obligations.HandlerServesOneIteration : Prop :=
  ∀ (s : State) (e : ErrorFlags) (rr tr : Bool) (ps rs ts ws : List Bool) (es : List ErrorFlags)
    (xs : List Byte) (rest : List (Option Byte)) (k : Nat),
    ready .isr s → ringOk s .rx = true → ringOk s .tx = true →
    s.dev = ⟨true :: false :: ps, rr :: rs, tr :: ts, xs.map some ++ none :: rest,
      List.replicate k true ++ false :: ws, e :: es⟩ →
    ∃ (n m : Nat) (t : State),
      n = (if rr then min xs.length (roomNow s .rx) else 0) ∧
      m = (if tr then min k (usedNow s .tx) else 0) ∧
      exec .isr s = .next t ∧
      t.ovrCnt = s.ovrCnt + (if e.overrun then 1 else 0) ∧
      t.frmCnt = s.frmCnt + (if e.framing then 1 else 0) ∧
      ringContent t .rx = ringContent s .rx ++ xs.take n ∧ t.widx.rx = s.widx.rx + BitVec.ofNat 16 n ∧
      ringContent t .tx = (ringContent s .tx).drop m ∧ t.ridx.tx = s.ridx.tx + BitVec.ofNat 16 m ∧
      sentBytes t.trace = sentBytes s.trace ++ (ringContent s .tx).take m ∧
      t.dev =
        ⟨ps, rs, ts, if rr ∧ xs.length < roomNow s .rx then rest else s.dev.rx.drop n,
          if tr ∧ k < usedNow s .tx then ws else s.dev.tx.drop m, es⟩ ∧
      t.rxie = (if rr then s.rxie && decide (usedNow s .rx + n < s.cap.rx.toNat) else s.rxie) ∧
      t.tmr =
        (if rr then
          if s.cap.rx.toNat / 2 ≤ usedNow s .rx + n then .idle
          else if usedNow s .rx + n = 0 then s.tmr else .armed
        else s.tmr) ∧
      t.wake.rx =
        (if rr ∧ s.cap.rx.toNat / 2 ≤ usedNow s .rx + n
          then if s.wake.rx = .parked then .idle else .raised
          else s.wake.rx) ∧
      t.txie = (if tr then s.txie && decide (usedNow s .tx ≠ m) else s.txie) ∧
      t.wake.tx =
        (if tr ∧ usedNow s .tx - m ≤ s.cap.tx.toNat / 2
          then if s.wake.tx = .parked then .idle else .raised
          else s.wake.tx) ∧
      (rr = false → t.storage = s.storage) ∧
      t.run.get .isr = .idle ∧ t.responses = ⟨s.issuer, 0, []⟩ :: s.responses

/-- R181: each flag the device reports adds exactly one, modulo `2^32`, to its own counter; the queue's next
answer is the one taken, and where it is empty the flags are a free value (log 6). -/
def Obligations.ErrorFlagsAreCounted : Prop :=
  ∀ s : State, ready .errChk s →
    ∃ (e : ErrorFlags) (t : State), exec .errChk s = .next t ∧
      (∀ e' es, s.dev.err = e' :: es → e = e' ∧ t.dev = { s.dev with err := es }) ∧
      t.trace = .checkAndClearErrors e :: s.trace ∧
      t.ovrCnt = s.ovrCnt + (if e.overrun then 1 else 0) ∧
      t.frmCnt = s.frmCnt + (if e.framing then 1 else 0) ∧
      t.responses = ⟨s.issuer, 0, []⟩ :: s.responses

/-- R182, R156: the receive burst appends the device's bytes, in order, until the device is dry or the ring is
full; on a full ring no byte is read; then the receive policy on the level it leaves. -/
def Obligations.RxBurstFillsRing : Prop :=
  ∀ (s : State) (xs : List Byte) (rest : List (Option Byte)),
    ready .rxBurst s → ringOk s .rx = true → s.dev.rx = xs.map some ++ none :: rest →
    ∃ (n : Nat) (t : State), n = min xs.length (roomNow s .rx) ∧ exec .rxBurst s = .next t ∧
      ringContent t .rx = ringContent s .rx ++ xs.take n ∧
      t.widx.rx = s.widx.rx + BitVec.ofNat 16 n ∧
      t.dev.rx = (if xs.length < roomNow s .rx then rest else s.dev.rx.drop n) ∧
      t.rxie = (s.rxie && decide (usedNow s .rx + n < s.cap.rx.toNat)) ∧
      t.tmr = (if s.cap.rx.toNat / 2 ≤ usedNow s .rx + n then .idle
        else if usedNow s .rx + n = 0 then s.tmr else .armed) ∧
      t.wake.rx = (if s.cap.rx.toNat / 2 ≤ usedNow s .rx + n
        then (if s.wake.rx = .parked then .idle else .raised) else s.wake.rx) ∧
      t.responses = ⟨s.issuer, 0, []⟩ :: s.responses

/-- R183, R154: the transmit burst hands the oldest bytes to the device in order and pops exactly those it
accepts, until it refuses one or the ring is empty; then the transmit policy. -/
def Obligations.TxBurstDrainsRing : Prop :=
  ∀ (s : State) (k : Nat) (ws : List Bool),
    ready .txBurst s → s.dev.tx = List.replicate k true ++ false :: ws →
    ∃ (n : Nat) (t : State), n = min k (usedNow s .tx) ∧ exec .txBurst s = .next t ∧
      sentBytes t.trace = sentBytes s.trace ++ (ringContent s .tx).take n ∧
      ringContent t .tx = (ringContent s .tx).drop n ∧
      t.ridx.tx = s.ridx.tx + BitVec.ofNat 16 n ∧
      t.dev.tx = (if k < usedNow s .tx then ws else s.dev.tx.drop n) ∧
      t.txie = (s.txie && decide (usedNow s .tx ≠ n)) ∧
      t.wake.tx = (if usedNow s .tx - n ≤ s.cap.tx.toNat / 2
        then (if s.wake.tx = .parked then .idle else .raised) else s.wake.tx) ∧
      t.responses = ⟨s.issuer, 0, []⟩ :: s.responses

/-! ## Thread calls -/

/-- R210: `WRNB` appends the longest prefix of the caller's bytes that fits, latches the counters it found,
turns the transmit interrupt on where the ring was empty and is not now, and answers the count, or
`WOULD_BLOCK` where nothing fitted and something was to be written. -/
def Obligations.WriteNonBlockingAppendsPrefix : Prop :=
  ∀ (s : State) (len : Nat), ready (.wrnb len) s → ringOk s .tx = true →
    ∃ (n : Nat) (t : State), n = min len (roomNow s .tx) ∧ exec (.wrnb len) s = .next t ∧
      ringContent t .tx = ringContent s .tx ++ (callerBytes s.freeCtr len s.payload).take n ∧
      t.widx.tx = s.widx.tx + BitVec.ofNat 16 n ∧
      t.snap.tx = ⟨s.widx.tx, s.ridx.tx⟩ ∧
      t.txie = (s.txie || decide (usedNow s .tx = 0 ∧ n ≠ 0)) ∧
      t.responses =
        ⟨s.issuer, if n = 0 ∧ 0 < len then 0x10000000 else BitVec.ofNat 32 n, []⟩ :: s.responses

/-- R211: `WRITE` answers `OK LEN` where all its bytes fit; where they do not it appends what fits and parks on
`wake[TX]`, with the rest to write when it is woken; a second waiter has no meaning (log 11). -/
def Obligations.WriteCompletesOrParks : Prop :=
  ∀ (s : State) (len : Nat), ready (.write len) s → len < 65536 → ringOk s .tx = true →
    (len ≤ roomNow s .tx →
      ∃ t, exec (.write len) s = .next t ∧
        ringContent t .tx = ringContent s .tx ++ callerBytes s.freeCtr len s.payload ∧
        t.run = s.run ∧ t.wake = s.wake ∧
        t.responses = ⟨s.issuer, BitVec.ofNat 32 len, []⟩ :: s.responses) ∧
    (roomNow s .tx < len → s.wake.tx ≠ .parked →
      ∃ t, exec (.write len) s = .next t ∧
        ringContent t .tx =
          ringContent s .tx ++ (callerBytes s.freeCtr len s.payload).take (roomNow s .tx) ∧
        t.run = s.run.set .txt .parked ∧ t.wake = s.wake.set .tx .parked ∧
        t.seq = s.seq.set .txt
          (some ⟨.wait2 .tx, [.writeWait len ((callerBytes s.freeCtr len s.payload).drop (roomNow s .tx))]⟩) ∧
        t.responses = s.responses) ∧
    (roomNow s .tx < len → s.wake.tx = .parked → exec (.write len) s = .fault .secondWaiter)

/-- R212: `RDNB` gives back the oldest bytes, as many as are there up to `LEN`, turns the receive interrupt on
where the ring was full and is not now, and answers the count, or `WOULD_BLOCK`. -/
def Obligations.ReadNonBlockingReturnsOldest : Prop :=
  ∀ (s : State) (len : Nat), ready (.rdnb len) s →
    ∃ (n : Nat) (t : State), n = min len (usedNow s .rx) ∧ exec (.rdnb len) s = .next t ∧
      ringContent t .rx = (ringContent s .rx).drop n ∧
      t.ridx.rx = s.ridx.rx + BitVec.ofNat 16 n ∧
      t.snap.rx = ⟨s.widx.rx, s.ridx.rx⟩ ∧
      t.rxie = (s.rxie || decide (s.cap.rx.toNat ≤ usedNow s .rx ∧ usedNow s .rx - n < s.cap.rx.toNat)) ∧
      t.responses =
        ⟨s.issuer, if n = 0 ∧ 0 < len then 0x10000000 else BitVec.ofNat 32 n,
          (ringContent s .rx).take n⟩ :: s.responses

/-- R213: `READ` answers at once what is there, like `RDNB`; with nothing there and `LEN > 0` it parks on
`wake[RX]`; a second waiter has no meaning (log 11). -/
def Obligations.ReadReturnsOrParks : Prop :=
  ∀ (s : State) (len : Nat), ready (.read len) s →
    (len = 0 ∨ usedNow s .rx ≠ 0 →
      ∃ (n : Nat) (t : State), n = min len (usedNow s .rx) ∧ exec (.read len) s = .next t ∧
        ringContent t .rx = (ringContent s .rx).drop n ∧ t.run = s.run ∧ t.wake = s.wake ∧
        t.responses = ⟨s.issuer, BitVec.ofNat 32 n, (ringContent s .rx).take n⟩ :: s.responses) ∧
    (len ≠ 0 → usedNow s .rx = 0 → s.wake.rx ≠ .parked →
      ∃ t, exec (.read len) s = .next t ∧ t.ridx = s.ridx ∧
        t.run = s.run.set .rxt .parked ∧ t.wake = s.wake.set .rx .parked ∧
        t.seq = s.seq.set .rxt (some ⟨.wait2 .rx, [.readWait len]⟩) ∧ t.responses = s.responses) ∧
    (len ≠ 0 → usedNow s .rx = 0 → s.wake.rx = .parked → exec (.read len) s = .fault .secondWaiter)

/-- R215, W2: what a writer writes, after what was in the ring before, comes out of the device in order when the
handler drains the ring, and the transmit interrupt is off at the end. -/
def Obligations.WrittenBytesReachDeviceInOrder : Prop :=
  ∀ (s : State) (len k : Nat) (ws : List Bool),
    s.issuer = .txt → ready (.wrnb len) s → ringOk s .tx = true → s.run.get .isr = .idle →
    s.dev.tx = List.replicate k true ++ ws → s.cap.tx.toNat ≤ k →
    ∃ t u, exec (.wrnb len) s = .next t ∧ exec .txBurst { t with issuer := .isr } = .next u ∧
      sentBytes u.trace =
        sentBytes s.trace ++ ringContent s .tx ++
          (callerBytes s.freeCtr len s.payload).take (roomNow s .tx) ∧
      usedNow u .tx = 0 ∧ u.txie = false

/-! ## Wake signal, timer, lifecycle -/

/-- R241, R243: the transitions of `RAISE` and `WRESET`. -/
def Obligations.RaiseAndResetTransitions : Prop :=
  ∀ (ch : Chan) (s : State),
    (ready (.raise ch) s → exec (.raise ch) s =
      .next { s with
        wake := s.wake.set ch (if s.wake.get ch = .parked then .idle else .raised)
        run := if s.wake.get ch = .parked then s.run.set (threadOf ch) .busy else s.run
        responses := ⟨s.issuer, 0, []⟩ :: s.responses }) ∧
    (ready (.wreset ch) s → exec (.wreset ch) s =
      .next { s with
        wake := s.wake.set ch (if s.wake.get ch = .parked then .parked else .idle)
        responses := ⟨s.issuer, 0, []⟩ :: s.responses })

/-- R242: `WAIT` consumes a raised signal at once; on an idle one it parks, with no response yet; a second
waiter has no meaning (log 11). Made runnable by a raise, the thread's next event answers `OK 0`. -/
def Obligations.WaitTransitions : Prop :=
  (∀ (ch : Chan) (s : State), ready (.wait ch) s →
    (s.wake.get ch = .raised → exec (.wait ch) s =
      .next { s with
        wake := s.wake.set ch .idle
        responses := ⟨s.issuer, 0, []⟩ :: s.responses }) ∧
    (s.wake.get ch = .idle → exec (.wait ch) s =
      .next { s with
        wake := s.wake.set ch .parked
        run := s.run.set s.issuer .parked
        seq := s.seq.set s.issuer (some ⟨.wait2 ch, []⟩) }) ∧
    (s.wake.get ch = .parked → exec (.wait ch) s = .fault .secondWaiter)) ∧
  (∀ (ch : Chan) (s : State) (ts : List Turn), s.sched = .run (threadOf ch) :: ts → isrHolds s = false →
    s.run.get (threadOf ch) = .busy → s.seq.get (threadOf ch) = some ⟨.wait2 ch, []⟩ →
    step s =
      .next { s with
        sched := ts
        run := s.run.set (threadOf ch) .idle
        seq := s.seq.set (threadOf ch) none
        responses := ⟨threadOf ch, 0, []⟩ :: s.responses })

/-- R245, R246, R247: arming starts the timer only when it is idle (no second call, the deadline stands),
stopping calls the service only when it is armed, and firing leaves it idle and raises `wake[RX]` whatever the
ring holds. -/
def Obligations.TimerArmStopFire : Prop :=
  ∀ s : State,
    (ready .tarm s → exec .tarm s =
      .next { s with
        tmr := .armed
        trace := if s.tmr = .idle then .startOneShot 1 :: s.trace else s.trace
        responses := ⟨s.issuer, 0, []⟩ :: s.responses }) ∧
    (ready .tstop s → exec .tstop s =
      .next { s with
        tmr := .idle
        trace := if s.tmr = .armed then .stop :: s.trace else s.trace
        responses := ⟨s.issuer, 0, []⟩ :: s.responses }) ∧
    (ready .tfire s → exec .tfire s =
      .next { s with
        tmr := .idle
        wake := s.wake.set .rx (if s.wake.rx = .parked then .idle else .raised)
        run := if s.wake.rx = .parked then s.run.set .rxt .busy else s.run
        responses := ⟨s.issuer, 0, []⟩ :: s.responses })

/-- R250: `CONSTRUCT` accepts exactly a power of two from 2 to 16384 on a channel that is not constructed, and
then sets the channel's elements. -/
def Obligations.ConstructAcceptsLegalCapacity : Prop :=
  ∀ (ch : Chan) (capv : Index) (s : State), ready (.construct ch capv) s → s.cap.get ch = 0 →
    (∃ k, 1 ≤ k ∧ k ≤ 14 ∧ capv.toNat = 2 ^ k) →
    exec (.construct ch capv) s =
      .next { s with
        cap := s.cap.set ch capv
        storage := s.storage.set ch []
        widx := s.widx.set ch 0
        ridx := s.ridx.set ch 0
        wake := s.wake.set ch .idle
        tmr := if ch = .rx then .idle else s.tmr
        snap := s.snap.set ch ⟨0, 0⟩
        responses := ⟨s.issuer, 0, []⟩ :: s.responses }

/-- R250, R286: the three rejections of `CONSTRUCT`, in their order, change no state. -/
def Obligations.ConstructRejectsInOrder : Prop :=
  ∀ (ch : Chan) (capv : Index) (s : State), ready (.construct ch capv) s →
    (s.cap.get ch ≠ 0 → exec (.construct ch capv) s =
      .next { s with responses := ⟨s.issuer, 0x30000003, []⟩ :: s.responses }) ∧
    (s.cap.get ch = 0 → (¬∃ k, capv.toNat = 2 ^ k) → exec (.construct ch capv) s =
      .next { s with responses := ⟨s.issuer, 0x30000001, []⟩ :: s.responses }) ∧
    (s.cap.get ch = 0 → (capv.toNat = 2 ^ 0 ∨ capv.toNat = 2 ^ 15) → exec (.construct ch capv) s =
      .next { s with responses := ⟨s.issuer, 0x30000002, []⟩ :: s.responses })

/-- R251: `SETUP` enables exactly the receive interrupt. -/
def Obligations.SetupEnablesReceive : Prop :=
  ∀ s : State, ready .setup s →
    exec .setup s =
      .next { s with
        rxie := true
        trace := .enableReceiveInterrupt :: s.trace
        responses := ⟨s.issuer, 0, []⟩ :: s.responses }

/-! ## Frames: what an operation leaves unchanged -/

/-- The queries, `CAP` and `PEEK` write nothing but their response (a `PEEK` on an empty ring, also `FAULT` and
its agent's status). -/
def Obligations.QueryFrame : Prop :=
  ∀ (ch : Chan) (s t : State),
    (∀ i ∈ ([.used ch, .isFull ch, .isEmpty ch, .cap ch] : List Instr), exec i s = .next t →
      t = { s with responses := t.responses } ∧ ∀ d a, t.memRead d a = s.memRead d a) ∧
    (exec (.peek ch) s = .next t →
      t = { s with fault := t.fault, run := t.run, responses := t.responses } ∧
      (s.widx.get ch ≠ s.ridx.get ch → t.fault = s.fault ∧ t.run = s.run) ∧
      (∀ a, a ≠ s.issuer → t.run.get a = s.run.get a) ∧ ∀ d a, t.memRead d a = s.memRead d a)

/-- `PUSH` writes one storage byte and the write counter of its channel, `POP` the read counter; on a violation
neither, but `FAULT` and the agent's status. -/
def Obligations.PushPopFrame : Prop :=
  ∀ (ch : Chan) (s t : State),
    (∀ b, exec (.push ch b) s = .next t →
      t = { s with
        storage := t.storage, widx := t.widx, fault := t.fault, run := t.run, responses := t.responses } ∧
      (∀ d, d ≠ ch → t.widx.get d = s.widx.get d) ∧ (∀ a, a ≠ s.issuer → t.run.get a = s.run.get a) ∧
      (∀ d a, (d, a) ≠ (ch, slotOf (s.widx.get ch) (s.cap.get ch)) → t.memRead d a = s.memRead d a) ∧
      (usedNow s ch < (s.cap.get ch).toNat → t.fault = s.fault ∧ t.run = s.run) ∧
      ((s.cap.get ch).toNat ≤ usedNow s ch → t.widx = s.widx ∧ t.storage = s.storage)) ∧
    (exec (.pop ch) s = .next t →
      t = { s with ridx := t.ridx, fault := t.fault, run := t.run, responses := t.responses } ∧
      (∀ d, d ≠ ch → t.ridx.get d = s.ridx.get d) ∧ (∀ a, a ≠ s.issuer → t.run.get a = s.run.get a) ∧
      (∀ d a, t.memRead d a = s.memRead d a) ∧
      (usedNow s ch ≠ 0 → t.fault = s.fault ∧ t.run = s.run) ∧ (usedNow s ch = 0 → t.ridx = s.ridx))

/-- The policy operations, `ERRCHK`, `SETUP`, `TARM` and `TSTOP` write the elements their rules list (R152 to
R156, R181, R245, R246, R251) and no byte of storage. -/
def Obligations.PolicyFrame : Prop :=
  ∀ s t : State,
    (∀ ch, exec (.snap ch) s = .next t →
      t = { s with snap := t.snap, responses := t.responses } ∧
      ∀ d, d ≠ ch → t.snap.get d = s.snap.get d) ∧
    (exec .fcTxt s = .next t →
      t = { s with txie := t.txie, trace := t.trace, responses := t.responses }) ∧
    (exec .fcRxt s = .next t →
      t = { s with rxie := t.rxie, trace := t.trace, responses := t.responses }) ∧
    (exec .fcTxi s = .next t →
      t = { s with
        txie := t.txie, wake := t.wake, run := t.run, trace := t.trace, responses := t.responses } ∧
      t.wake.rx = s.wake.rx ∧ ∀ a, a ≠ .txt → t.run.get a = s.run.get a) ∧
    (exec .fcRxi s = .next t →
      t = { s with
        rxie := t.rxie, tmr := t.tmr, wake := t.wake, run := t.run, trace := t.trace
        responses := t.responses } ∧
      t.wake.tx = s.wake.tx ∧ ∀ a, a ≠ .rxt → t.run.get a = s.run.get a) ∧
    (exec .errChk s = .next t →
      t = { s with
        ovrCnt := t.ovrCnt, frmCnt := t.frmCnt, dev := { s.dev with err := t.dev.err }
        freeCtr := t.freeCtr, trace := t.trace, responses := t.responses }) ∧
    (exec .setup s = .next t →
      t = { s with rxie := t.rxie, trace := t.trace, responses := t.responses }) ∧
    (exec .tarm s = .next t ∨ exec .tstop s = .next t →
      t = { s with tmr := t.tmr, trace := t.trace, responses := t.responses }) ∧
    (∀ ch, ∀ i ∈ ([.snap ch, .fcTxt, .fcRxt, .fcTxi, .fcRxi, .errChk, .setup, .tarm, .tstop] : List Instr),
      exec i s = .next t → ∀ d a, t.memRead d a = s.memRead d a)

/-- The wake operations and `TFIRE` write the signal of their channel and the status of its thread (R241 to
R243, R247) and no byte of storage. -/
def Obligations.WakeFrame : Prop :=
  ∀ (ch : Chan) (s t : State),
    (exec (.raise ch) s = .next t →
      t = { s with wake := t.wake, run := t.run, responses := t.responses } ∧
      (∀ d, d ≠ ch → t.wake.get d = s.wake.get d) ∧ ∀ a, a ≠ threadOf ch → t.run.get a = s.run.get a) ∧
    (exec (.wreset ch) s = .next t →
      t = { s with wake := t.wake, responses := t.responses } ∧
      ∀ d, d ≠ ch → t.wake.get d = s.wake.get d) ∧
    (exec (.wait ch) s = .next t →
      t = { s with wake := t.wake, run := t.run, seq := t.seq, responses := t.responses } ∧
      (∀ d, d ≠ ch → t.wake.get d = s.wake.get d) ∧
      ∀ a, a ≠ s.issuer → t.run.get a = s.run.get a ∧ t.seq.get a = s.seq.get a) ∧
    (exec .tfire s = .next t →
      t = { s with tmr := t.tmr, wake := t.wake, run := t.run, responses := t.responses } ∧
      t.wake.tx = s.wake.tx ∧ ∀ a, a ≠ .rxt → t.run.get a = s.run.get a) ∧
    (∀ i ∈ ([.raise ch, .wreset ch, .wait ch, .tfire] : List Instr),
      exec i s = .next t → ∀ d a, t.memRead d a = s.memRead d a)

/-- The handler and its bursts write the elements R180 to R183 list; `RXBURST` and `ISR` store only to the
slots of the write counter values they pass, `TXBURST` stores nothing, none raises a violation. -/
def Obligations.HandlerFrame : Prop :=
  ∀ s t : State,
    (exec .rxBurst s = .next t →
      t = { s with
        storage := t.storage, widx := t.widx, rxie := t.rxie, tmr := t.tmr, wake := t.wake, run := t.run
        dev := { s.dev with rx := t.dev.rx }, freeCtr := t.freeCtr, trace := t.trace
        responses := t.responses } ∧
      t.widx.tx = s.widx.tx ∧ t.wake.tx = s.wake.tx ∧ (∀ a, a ≠ .rxt → t.run.get a = s.run.get a) ∧
      (∀ a, t.memRead .tx a = s.memRead .tx a) ∧
      (∀ a, (∀ k, k < (t.widx.rx - s.widx.rx).toNat → a ≠ slotOf (s.widx.rx + BitVec.ofNat 16 k) s.cap.rx) →
        t.memRead .rx a = s.memRead .rx a)) ∧
    (exec .txBurst s = .next t →
      t = { s with
        ridx := t.ridx, txie := t.txie, wake := t.wake, run := t.run, dev := { s.dev with tx := t.dev.tx }
        freeCtr := t.freeCtr, trace := t.trace, responses := t.responses } ∧
      t.ridx.rx = s.ridx.rx ∧ t.wake.rx = s.wake.rx ∧ (∀ a, a ≠ .txt → t.run.get a = s.run.get a) ∧
      ∀ d a, t.memRead d a = s.memRead d a) ∧
    (exec .isr s = .next t →
      t = { s with
        storage := t.storage, widx := t.widx, ridx := t.ridx, rxie := t.rxie, txie := t.txie, tmr := t.tmr
        wake := t.wake, run := t.run, seq := t.seq, ovrCnt := t.ovrCnt, frmCnt := t.frmCnt, dev := t.dev
        freeCtr := t.freeCtr, trace := t.trace, responses := t.responses } ∧
      t.widx.tx = s.widx.tx ∧ t.ridx.rx = s.ridx.rx ∧
      (∀ a, a ≠ .rxt → a ≠ .txt → a ≠ .isr → t.run.get a = s.run.get a) ∧
      (∀ a, a ≠ .isr → t.seq.get a = s.seq.get a) ∧
      (∀ a, t.memRead .tx a = s.memRead .tx a) ∧
      (∀ a, (∀ k, k < (t.widx.rx - s.widx.rx).toNat → a ≠ slotOf (s.widx.rx + BitVec.ofNat 16 k) s.cap.rx) →
        t.memRead .rx a = s.memRead .rx a))

/-- The thread calls write the elements R210 to R213 list, of their own channel only; the writing ones store
only to the slots of the write counter values they pass, the reading ones store nothing. -/
def Obligations.ThreadCallFrame : Prop :=
  ∀ (len : Nat) (s t : State),
    (exec (.wrnb len) s = .next t →
      t = { s with
        storage := t.storage, widx := t.widx, snap := t.snap, txie := t.txie, freeCtr := t.freeCtr
        trace := t.trace, responses := t.responses }) ∧
    (exec (.write len) s = .next t →
      t = { s with
        storage := t.storage, widx := t.widx, snap := t.snap, txie := t.txie, wake := t.wake, run := t.run
        seq := t.seq, freeCtr := t.freeCtr, trace := t.trace, responses := t.responses } ∧
      t.wake.rx = s.wake.rx ∧
      ∀ a, a ≠ .txt → t.run.get a = s.run.get a ∧ t.seq.get a = s.seq.get a) ∧
    (exec (.wrnb len) s = .next t ∨ exec (.write len) s = .next t →
      t.widx.rx = s.widx.rx ∧ t.snap.rx = s.snap.rx ∧ (∀ a, t.memRead .rx a = s.memRead .rx a) ∧
      (∀ a, (∀ k, k < (t.widx.tx - s.widx.tx).toNat → a ≠ slotOf (s.widx.tx + BitVec.ofNat 16 k) s.cap.tx) →
        t.memRead .tx a = s.memRead .tx a)) ∧
    (exec (.rdnb len) s = .next t →
      t = { s with
        ridx := t.ridx, snap := t.snap, rxie := t.rxie, trace := t.trace, responses := t.responses }) ∧
    (exec (.read len) s = .next t →
      t = { s with
        ridx := t.ridx, snap := t.snap, rxie := t.rxie, wake := t.wake, run := t.run, seq := t.seq
        trace := t.trace, responses := t.responses } ∧
      t.wake.tx = s.wake.tx ∧
      ∀ a, a ≠ .rxt → t.run.get a = s.run.get a ∧ t.seq.get a = s.seq.get a) ∧
    (exec (.rdnb len) s = .next t ∨ exec (.read len) s = .next t →
      t.ridx.tx = s.ridx.tx ∧ t.snap.tx = s.snap.tx ∧ ∀ d a, t.memRead d a = s.memRead d a)

/-- `CONSTRUCT` writes the elements of its channel (R250), not the enables (R39), and nothing of the other
channel; a channel's bytes are those of an array that nothing has written. -/
def Obligations.ConstructFrame : Prop :=
  ∀ (ch : Chan) (capv : Index) (s t : State), exec (.construct ch capv) s = .next t →
    t = { s with
      cap := t.cap, storage := t.storage, widx := t.widx, ridx := t.ridx, wake := t.wake, tmr := t.tmr
      snap := t.snap, responses := t.responses } ∧
    (ch = .tx → t.tmr = s.tmr) ∧
    ∀ d, d ≠ ch → t.cap.get d = s.cap.get d ∧ t.storage.get d = s.storage.get d ∧
      t.widx.get d = s.widx.get d ∧ t.ridx.get d = s.ridx.get d ∧ t.wake.get d = s.wake.get d ∧
      t.snap.get d = s.snap.get d ∧ ∀ a, t.memRead d a = s.memRead d a

/-! ## Whole-machine rules -/

/-- R22, R23, R25, R296: every element has the writers the table lists and no others, for whole operations and,
in the legal states, event by event. `HOST` writes counters, storage, latches and timer only of a channel whose
capacity is 0, by constructing it (R39). -/
def Obligations.SingleWriterPerElement : Prop :=
  (∀ (i : Instr) (s t : State), exec i s = .next t → writesAllowed s.issuer s t) ∧
  (∀ (a : Agent) (s t : State), ringInv s = true → s.run.get a = .busy → agentEvent a s = .next t →
    writesAllowed a s t)

/-- R32, R283: no step but power-on reset changes a recorded violation; when one is recorded its agent is
halted; in the legal states a halted agent stays halted. -/
def Obligations.ViolationIsSticky : Prop :=
  ∀ s t : State, (∀ ts, s.sched ≠ .powerOn :: ts) → step s = .next t →
    (∀ v, s.fault = some v → t.fault = some v) ∧
    (∀ v, s.fault = none → t.fault = some v → t.run.get v.agent = .halted) ∧
    (∀ a, ringInv s = true → s.run.get a = .halted → t.run.get a = .halted)

/-- R20, R41 and 20_memory.md R60, over every state: no step but power-on reset changes a capacity once it is
not 0; no step changes `CONCURRENCY`; every step keeps both storage arrays in canonical form. -/
def Obligations.StepKeepsCapacityModeAndStorageForm : Prop :=
  ∀ s t : State, step s = .next t →
    (∀ ch, s.cap.get ch ≠ 0 → (∀ ts, s.sched ≠ .powerOn :: ts) → t.cap.get ch = s.cap.get ch) ∧
    t.mode = s.mode ∧
    (∀ ch, Memory.wf (s.storage.get ch) → Memory.wf (t.storage.get ch))

/-- R39: the state after reset is a legal state. -/
def Obligations.RingInvariantAtReset : Prop := ringInv State.reset = true

/-- R24, R33, R60, R68: in both modes, whatever the interleaving, every step keeps the ring invariant: `used ≤
cap`, legal capacities, storage in canonical form inside the array, PARKED threads exactly at PARKED signals,
and what the operations in progress hold of the counters. -/
def Obligations.RingInvariantKept : Prop :=
  ∀ s t : State, ringInv s = true → step s = .next t → ringInv t = true

/-- R282: in the legal states, in both modes, an event records or raises a violation only for a lone `PUSH`,
`POP` or `PEEK` command, never inside a composite operation. -/
def Obligations.NoViolationInsideComposite : Prop :=
  ∀ (a : Agent) (s t : State), ringInv s = true → s.run.get a = .busy → agentEvent a s = .next t →
    t.run.get a = .halted → ∃ code ch, s.seq.get a = some ⟨.violate code ch, []⟩

/-- R303, R295: every event of `ISR` is enabled and none parks it, in the legal states; no operation at its port
stops or parks. -/
def Obligations.HandlerNeverWaits : Prop :=
  (∀ s : State, ringInv s = true → s.run.get .isr = .busy →
    ∃ t, agentEvent .isr s = .next t ∧ t.run.get .isr ≠ .parked) ∧
  (∀ (i : Instr) (s : State), s.issuer = .isr → ready i s →
    ∃ t, exec i s = .next t ∧ t.run.get .isr ≠ .parked)

/-- R332, R251: constructing both channels with legal capacities and setting up leads from reset to a state with
the flow-control invariant. -/
def Obligations.FlowInvariantAfterSetup : Prop :=
  ∀ c d : Index, capLegal c = true → c ≠ 0 → capLegal d = true → d ≠ 0 →
    ∃ t u v, exec (.construct .rx c) State.reset = .next t ∧ exec (.construct .tx d) t = .next u ∧
      exec .setup u = .next v ∧ v.cap = ⟨c, d⟩ ∧ v.rxie = true ∧ v.txie = false ∧ flowInv v = true

/-- R158, R73, R343: in `PREEMPTIVE` mode every step, whatever the interleaving, keeps the invariant behind "no
lost wake-ups, no missed re-enable". Its premises on the callers are those of the rule: bytes moved by the
thread calls only, in bursts too short for a counter to come round. -/
def Obligations.FlowInvariantKept : Prop :=
  ∀ s t : State, flowInv s = true → step s = .next t → flowInv t = true

/-- R158: in a state with that invariant, with the thread of the channel not inside a burst: data in the TX ring
implies `TXIE = 1`, and room in the RX ring implies `RXIE = 1`. -/
def Obligations.FlowInvariantGivesEnables : Prop :=
  ∀ s : State, flowInv s = true →
    (inTxBurst s = false → 0 < usedNow s .tx → s.txie = true) ∧
    (inRxBurst s = false → usedNow s .rx < s.cap.rx.toNat → s.rxie = true)
end

