-- ==== Sys2Proof/Laws/State.lean ====
section
/-! SUPPORT. One lemma for each field and each update of the state: later proofs use these and never unfold a
record update. -/

namespace Sys2Proof.Machine

/-! ## Reading and setting one channel or one agent -/

@[simp] theorem PerChan.get_set_same {α : Type} (p : PerChan α) (ch : Chan) (v : α) : (p.set ch v).get ch = v := by
  cases ch <;> rfl

@[simp] theorem PerChan.get_set_ne {α : Type} (p : PerChan α) (c d : Chan) (v : α) (h : d ≠ c) :
    (p.set c v).get d = p.get d := by
  cases c <;> cases d <;> first | rfl | exact absurd rfl h

theorem PerChan.get_set {α : Type} (p : PerChan α) (c d : Chan) (v : α) :
    (p.set c v).get d = if d = c then v else p.get d := by
  cases c <;> cases d <;> rfl

@[simp] theorem PerAgent.get_set_same {α : Type} (p : PerAgent α) (a : Agent) (v : α) : (p.set a v).get a = v := by
  cases a <;> rfl

@[simp] theorem PerAgent.get_set_ne {α : Type} (p : PerAgent α) (a b : Agent) (v : α) (h : b ≠ a) :
    (p.set a v).get b = p.get b := by
  cases a <;> cases b <;> first | rfl | exact absurd rfl h

theorem PerAgent.get_set {α : Type} (p : PerAgent α) (a b : Agent) (v : α) :
    (p.set a v).get b = if b = a then v else p.get b := by
  cases a <;> cases b <;> rfl

theorem PerAgent.set_get {α : Type} (p : PerAgent α) (a : Agent) : p.set a (p.get a) = p := by
  cases a <;> rfl

theorem PerChan.set_get {α : Type} (p : PerChan α) (ch : Chan) : p.set ch (p.get ch) = p := by
  cases ch <;> rfl

namespace State

variable (s : State)

/-! ## memWrite -/

@[simp] theorem memWrite_cap (ch : Chan) (i : Nat) (b : Byte) :
    (s.memWrite ch i b).cap = s.cap := rfl
@[simp] theorem memWrite_storage (ch : Chan) (i : Nat) (b : Byte) :
    (s.memWrite ch i b).storage = s.storage.set ch (Memory.write (s.storage.get ch) i b) := rfl
@[simp] theorem memWrite_widx (ch : Chan) (i : Nat) (b : Byte) :
    (s.memWrite ch i b).widx = s.widx := rfl
@[simp] theorem memWrite_ridx (ch : Chan) (i : Nat) (b : Byte) :
    (s.memWrite ch i b).ridx = s.ridx := rfl
@[simp] theorem memWrite_wake (ch : Chan) (i : Nat) (b : Byte) :
    (s.memWrite ch i b).wake = s.wake := rfl
@[simp] theorem memWrite_tmr (ch : Chan) (i : Nat) (b : Byte) :
    (s.memWrite ch i b).tmr = s.tmr := rfl
@[simp] theorem memWrite_rxie (ch : Chan) (i : Nat) (b : Byte) :
    (s.memWrite ch i b).rxie = s.rxie := rfl
@[simp] theorem memWrite_txie (ch : Chan) (i : Nat) (b : Byte) :
    (s.memWrite ch i b).txie = s.txie := rfl
@[simp] theorem memWrite_ovrCnt (ch : Chan) (i : Nat) (b : Byte) :
    (s.memWrite ch i b).ovrCnt = s.ovrCnt := rfl
@[simp] theorem memWrite_frmCnt (ch : Chan) (i : Nat) (b : Byte) :
    (s.memWrite ch i b).frmCnt = s.frmCnt := rfl
@[simp] theorem memWrite_fault (ch : Chan) (i : Nat) (b : Byte) :
    (s.memWrite ch i b).fault = s.fault := rfl
@[simp] theorem memWrite_run (ch : Chan) (i : Nat) (b : Byte) :
    (s.memWrite ch i b).run = s.run := rfl
@[simp] theorem memWrite_snap (ch : Chan) (i : Nat) (b : Byte) :
    (s.memWrite ch i b).snap = s.snap := rfl
@[simp] theorem memWrite_seq (ch : Chan) (i : Nat) (b : Byte) :
    (s.memWrite ch i b).seq = s.seq := rfl
@[simp] theorem memWrite_mode (ch : Chan) (i : Nat) (b : Byte) :
    (s.memWrite ch i b).mode = s.mode := rfl
@[simp] theorem memWrite_ports (ch : Chan) (i : Nat) (b : Byte) :
    (s.memWrite ch i b).ports = s.ports := rfl
@[simp] theorem memWrite_issuer (ch : Chan) (i : Nat) (b : Byte) :
    (s.memWrite ch i b).issuer = s.issuer := rfl
@[simp] theorem memWrite_payload (ch : Chan) (i : Nat) (b : Byte) :
    (s.memWrite ch i b).payload = s.payload := rfl
@[simp] theorem memWrite_sched (ch : Chan) (i : Nat) (b : Byte) :
    (s.memWrite ch i b).sched = s.sched := rfl
@[simp] theorem memWrite_dev (ch : Chan) (i : Nat) (b : Byte) :
    (s.memWrite ch i b).dev = s.dev := rfl
@[simp] theorem memWrite_freeCtr (ch : Chan) (i : Nat) (b : Byte) :
    (s.memWrite ch i b).freeCtr = s.freeCtr := rfl
@[simp] theorem memWrite_trace (ch : Chan) (i : Nat) (b : Byte) :
    (s.memWrite ch i b).trace = s.trace := rfl
@[simp] theorem memWrite_responses (ch : Chan) (i : Nat) (b : Byte) :
    (s.memWrite ch i b).responses = s.responses := rfl

/-! ## setWidx -/

@[simp] theorem setWidx_cap (ch : Chan) (v : Index) : (s.setWidx ch v).cap = s.cap := rfl
@[simp] theorem setWidx_storage (ch : Chan) (v : Index) :
    (s.setWidx ch v).storage = s.storage := rfl
@[simp] theorem setWidx_widx (ch : Chan) (v : Index) :
    (s.setWidx ch v).widx = s.widx.set ch v := rfl
@[simp] theorem setWidx_ridx (ch : Chan) (v : Index) : (s.setWidx ch v).ridx = s.ridx := rfl
@[simp] theorem setWidx_wake (ch : Chan) (v : Index) : (s.setWidx ch v).wake = s.wake := rfl
@[simp] theorem setWidx_tmr (ch : Chan) (v : Index) : (s.setWidx ch v).tmr = s.tmr := rfl
@[simp] theorem setWidx_rxie (ch : Chan) (v : Index) : (s.setWidx ch v).rxie = s.rxie := rfl
@[simp] theorem setWidx_txie (ch : Chan) (v : Index) : (s.setWidx ch v).txie = s.txie := rfl
@[simp] theorem setWidx_ovrCnt (ch : Chan) (v : Index) : (s.setWidx ch v).ovrCnt = s.ovrCnt := rfl
@[simp] theorem setWidx_frmCnt (ch : Chan) (v : Index) : (s.setWidx ch v).frmCnt = s.frmCnt := rfl
@[simp] theorem setWidx_fault (ch : Chan) (v : Index) : (s.setWidx ch v).fault = s.fault := rfl
@[simp] theorem setWidx_run (ch : Chan) (v : Index) : (s.setWidx ch v).run = s.run := rfl
@[simp] theorem setWidx_snap (ch : Chan) (v : Index) : (s.setWidx ch v).snap = s.snap := rfl
@[simp] theorem setWidx_seq (ch : Chan) (v : Index) : (s.setWidx ch v).seq = s.seq := rfl
@[simp] theorem setWidx_mode (ch : Chan) (v : Index) : (s.setWidx ch v).mode = s.mode := rfl
@[simp] theorem setWidx_ports (ch : Chan) (v : Index) : (s.setWidx ch v).ports = s.ports := rfl
@[simp] theorem setWidx_issuer (ch : Chan) (v : Index) : (s.setWidx ch v).issuer = s.issuer := rfl
@[simp] theorem setWidx_payload (ch : Chan) (v : Index) :
    (s.setWidx ch v).payload = s.payload := rfl
@[simp] theorem setWidx_sched (ch : Chan) (v : Index) : (s.setWidx ch v).sched = s.sched := rfl
@[simp] theorem setWidx_dev (ch : Chan) (v : Index) : (s.setWidx ch v).dev = s.dev := rfl
@[simp] theorem setWidx_freeCtr (ch : Chan) (v : Index) :
    (s.setWidx ch v).freeCtr = s.freeCtr := rfl
@[simp] theorem setWidx_trace (ch : Chan) (v : Index) : (s.setWidx ch v).trace = s.trace := rfl
@[simp] theorem setWidx_responses (ch : Chan) (v : Index) :
    (s.setWidx ch v).responses = s.responses := rfl

/-! ## setRidx -/

@[simp] theorem setRidx_cap (ch : Chan) (v : Index) : (s.setRidx ch v).cap = s.cap := rfl
@[simp] theorem setRidx_storage (ch : Chan) (v : Index) :
    (s.setRidx ch v).storage = s.storage := rfl
@[simp] theorem setRidx_widx (ch : Chan) (v : Index) : (s.setRidx ch v).widx = s.widx := rfl
@[simp] theorem setRidx_ridx (ch : Chan) (v : Index) :
    (s.setRidx ch v).ridx = s.ridx.set ch v := rfl
@[simp] theorem setRidx_wake (ch : Chan) (v : Index) : (s.setRidx ch v).wake = s.wake := rfl
@[simp] theorem setRidx_tmr (ch : Chan) (v : Index) : (s.setRidx ch v).tmr = s.tmr := rfl
@[simp] theorem setRidx_rxie (ch : Chan) (v : Index) : (s.setRidx ch v).rxie = s.rxie := rfl
@[simp] theorem setRidx_txie (ch : Chan) (v : Index) : (s.setRidx ch v).txie = s.txie := rfl
@[simp] theorem setRidx_ovrCnt (ch : Chan) (v : Index) : (s.setRidx ch v).ovrCnt = s.ovrCnt := rfl
@[simp] theorem setRidx_frmCnt (ch : Chan) (v : Index) : (s.setRidx ch v).frmCnt = s.frmCnt := rfl
@[simp] theorem setRidx_fault (ch : Chan) (v : Index) : (s.setRidx ch v).fault = s.fault := rfl
@[simp] theorem setRidx_run (ch : Chan) (v : Index) : (s.setRidx ch v).run = s.run := rfl
@[simp] theorem setRidx_snap (ch : Chan) (v : Index) : (s.setRidx ch v).snap = s.snap := rfl
@[simp] theorem setRidx_seq (ch : Chan) (v : Index) : (s.setRidx ch v).seq = s.seq := rfl
@[simp] theorem setRidx_mode (ch : Chan) (v : Index) : (s.setRidx ch v).mode = s.mode := rfl
@[simp] theorem setRidx_ports (ch : Chan) (v : Index) : (s.setRidx ch v).ports = s.ports := rfl
@[simp] theorem setRidx_issuer (ch : Chan) (v : Index) : (s.setRidx ch v).issuer = s.issuer := rfl
@[simp] theorem setRidx_payload (ch : Chan) (v : Index) :
    (s.setRidx ch v).payload = s.payload := rfl
@[simp] theorem setRidx_sched (ch : Chan) (v : Index) : (s.setRidx ch v).sched = s.sched := rfl
@[simp] theorem setRidx_dev (ch : Chan) (v : Index) : (s.setRidx ch v).dev = s.dev := rfl
@[simp] theorem setRidx_freeCtr (ch : Chan) (v : Index) :
    (s.setRidx ch v).freeCtr = s.freeCtr := rfl
@[simp] theorem setRidx_trace (ch : Chan) (v : Index) : (s.setRidx ch v).trace = s.trace := rfl
@[simp] theorem setRidx_responses (ch : Chan) (v : Index) :
    (s.setRidx ch v).responses = s.responses := rfl

/-! ## latchW -/

@[simp] theorem latchW_cap (ch : Chan) : (s.latchW ch).cap = s.cap := rfl
@[simp] theorem latchW_storage (ch : Chan) : (s.latchW ch).storage = s.storage := rfl
@[simp] theorem latchW_widx (ch : Chan) : (s.latchW ch).widx = s.widx := rfl
@[simp] theorem latchW_ridx (ch : Chan) : (s.latchW ch).ridx = s.ridx := rfl
@[simp] theorem latchW_wake (ch : Chan) : (s.latchW ch).wake = s.wake := rfl
@[simp] theorem latchW_tmr (ch : Chan) : (s.latchW ch).tmr = s.tmr := rfl
@[simp] theorem latchW_rxie (ch : Chan) : (s.latchW ch).rxie = s.rxie := rfl
@[simp] theorem latchW_txie (ch : Chan) : (s.latchW ch).txie = s.txie := rfl
@[simp] theorem latchW_ovrCnt (ch : Chan) : (s.latchW ch).ovrCnt = s.ovrCnt := rfl
@[simp] theorem latchW_frmCnt (ch : Chan) : (s.latchW ch).frmCnt = s.frmCnt := rfl
@[simp] theorem latchW_fault (ch : Chan) : (s.latchW ch).fault = s.fault := rfl
@[simp] theorem latchW_run (ch : Chan) : (s.latchW ch).run = s.run := rfl
@[simp] theorem latchW_snap (ch : Chan) :
    (s.latchW ch).snap = s.snap.set ch ⟨s.widx.get ch, (s.snap.get ch).snapR⟩ := rfl
@[simp] theorem latchW_seq (ch : Chan) : (s.latchW ch).seq = s.seq := rfl
@[simp] theorem latchW_mode (ch : Chan) : (s.latchW ch).mode = s.mode := rfl
@[simp] theorem latchW_ports (ch : Chan) : (s.latchW ch).ports = s.ports := rfl
@[simp] theorem latchW_issuer (ch : Chan) : (s.latchW ch).issuer = s.issuer := rfl
@[simp] theorem latchW_payload (ch : Chan) : (s.latchW ch).payload = s.payload := rfl
@[simp] theorem latchW_sched (ch : Chan) : (s.latchW ch).sched = s.sched := rfl
@[simp] theorem latchW_dev (ch : Chan) : (s.latchW ch).dev = s.dev := rfl
@[simp] theorem latchW_freeCtr (ch : Chan) : (s.latchW ch).freeCtr = s.freeCtr := rfl
@[simp] theorem latchW_trace (ch : Chan) : (s.latchW ch).trace = s.trace := rfl
@[simp] theorem latchW_responses (ch : Chan) : (s.latchW ch).responses = s.responses := rfl

/-! ## latchR -/

@[simp] theorem latchR_cap (ch : Chan) : (s.latchR ch).cap = s.cap := rfl
@[simp] theorem latchR_storage (ch : Chan) : (s.latchR ch).storage = s.storage := rfl
@[simp] theorem latchR_widx (ch : Chan) : (s.latchR ch).widx = s.widx := rfl
@[simp] theorem latchR_ridx (ch : Chan) : (s.latchR ch).ridx = s.ridx := rfl
@[simp] theorem latchR_wake (ch : Chan) : (s.latchR ch).wake = s.wake := rfl
@[simp] theorem latchR_tmr (ch : Chan) : (s.latchR ch).tmr = s.tmr := rfl
@[simp] theorem latchR_rxie (ch : Chan) : (s.latchR ch).rxie = s.rxie := rfl
@[simp] theorem latchR_txie (ch : Chan) : (s.latchR ch).txie = s.txie := rfl
@[simp] theorem latchR_ovrCnt (ch : Chan) : (s.latchR ch).ovrCnt = s.ovrCnt := rfl
@[simp] theorem latchR_frmCnt (ch : Chan) : (s.latchR ch).frmCnt = s.frmCnt := rfl
@[simp] theorem latchR_fault (ch : Chan) : (s.latchR ch).fault = s.fault := rfl
@[simp] theorem latchR_run (ch : Chan) : (s.latchR ch).run = s.run := rfl
@[simp] theorem latchR_snap (ch : Chan) :
    (s.latchR ch).snap = s.snap.set ch ⟨(s.snap.get ch).snapW, s.ridx.get ch⟩ := rfl
@[simp] theorem latchR_seq (ch : Chan) : (s.latchR ch).seq = s.seq := rfl
@[simp] theorem latchR_mode (ch : Chan) : (s.latchR ch).mode = s.mode := rfl
@[simp] theorem latchR_ports (ch : Chan) : (s.latchR ch).ports = s.ports := rfl
@[simp] theorem latchR_issuer (ch : Chan) : (s.latchR ch).issuer = s.issuer := rfl
@[simp] theorem latchR_payload (ch : Chan) : (s.latchR ch).payload = s.payload := rfl
@[simp] theorem latchR_sched (ch : Chan) : (s.latchR ch).sched = s.sched := rfl
@[simp] theorem latchR_dev (ch : Chan) : (s.latchR ch).dev = s.dev := rfl
@[simp] theorem latchR_freeCtr (ch : Chan) : (s.latchR ch).freeCtr = s.freeCtr := rfl
@[simp] theorem latchR_trace (ch : Chan) : (s.latchR ch).trace = s.trace := rfl
@[simp] theorem latchR_responses (ch : Chan) : (s.latchR ch).responses = s.responses := rfl

/-! ## setWake -/

@[simp] theorem setWake_cap (ch : Chan) (v : Wake) : (s.setWake ch v).cap = s.cap := rfl
@[simp] theorem setWake_storage (ch : Chan) (v : Wake) : (s.setWake ch v).storage = s.storage := rfl
@[simp] theorem setWake_widx (ch : Chan) (v : Wake) : (s.setWake ch v).widx = s.widx := rfl
@[simp] theorem setWake_ridx (ch : Chan) (v : Wake) : (s.setWake ch v).ridx = s.ridx := rfl
@[simp] theorem setWake_wake (ch : Chan) (v : Wake) : (s.setWake ch v).wake = s.wake.set ch v := rfl
@[simp] theorem setWake_tmr (ch : Chan) (v : Wake) : (s.setWake ch v).tmr = s.tmr := rfl
@[simp] theorem setWake_rxie (ch : Chan) (v : Wake) : (s.setWake ch v).rxie = s.rxie := rfl
@[simp] theorem setWake_txie (ch : Chan) (v : Wake) : (s.setWake ch v).txie = s.txie := rfl
@[simp] theorem setWake_ovrCnt (ch : Chan) (v : Wake) : (s.setWake ch v).ovrCnt = s.ovrCnt := rfl
@[simp] theorem setWake_frmCnt (ch : Chan) (v : Wake) : (s.setWake ch v).frmCnt = s.frmCnt := rfl
@[simp] theorem setWake_fault (ch : Chan) (v : Wake) : (s.setWake ch v).fault = s.fault := rfl
@[simp] theorem setWake_run (ch : Chan) (v : Wake) : (s.setWake ch v).run = s.run := rfl
@[simp] theorem setWake_snap (ch : Chan) (v : Wake) : (s.setWake ch v).snap = s.snap := rfl
@[simp] theorem setWake_seq (ch : Chan) (v : Wake) : (s.setWake ch v).seq = s.seq := rfl
@[simp] theorem setWake_mode (ch : Chan) (v : Wake) : (s.setWake ch v).mode = s.mode := rfl
@[simp] theorem setWake_ports (ch : Chan) (v : Wake) : (s.setWake ch v).ports = s.ports := rfl
@[simp] theorem setWake_issuer (ch : Chan) (v : Wake) : (s.setWake ch v).issuer = s.issuer := rfl
@[simp] theorem setWake_payload (ch : Chan) (v : Wake) : (s.setWake ch v).payload = s.payload := rfl
@[simp] theorem setWake_sched (ch : Chan) (v : Wake) : (s.setWake ch v).sched = s.sched := rfl
@[simp] theorem setWake_dev (ch : Chan) (v : Wake) : (s.setWake ch v).dev = s.dev := rfl
@[simp] theorem setWake_freeCtr (ch : Chan) (v : Wake) : (s.setWake ch v).freeCtr = s.freeCtr := rfl
@[simp] theorem setWake_trace (ch : Chan) (v : Wake) : (s.setWake ch v).trace = s.trace := rfl
@[simp] theorem setWake_responses (ch : Chan) (v : Wake) :
    (s.setWake ch v).responses = s.responses := rfl

/-! ## setRun -/

@[simp] theorem setRun_cap (a : Agent) (v : Run) : (s.setRun a v).cap = s.cap := rfl
@[simp] theorem setRun_storage (a : Agent) (v : Run) : (s.setRun a v).storage = s.storage := rfl
@[simp] theorem setRun_widx (a : Agent) (v : Run) : (s.setRun a v).widx = s.widx := rfl
@[simp] theorem setRun_ridx (a : Agent) (v : Run) : (s.setRun a v).ridx = s.ridx := rfl
@[simp] theorem setRun_wake (a : Agent) (v : Run) : (s.setRun a v).wake = s.wake := rfl
@[simp] theorem setRun_tmr (a : Agent) (v : Run) : (s.setRun a v).tmr = s.tmr := rfl
@[simp] theorem setRun_rxie (a : Agent) (v : Run) : (s.setRun a v).rxie = s.rxie := rfl
@[simp] theorem setRun_txie (a : Agent) (v : Run) : (s.setRun a v).txie = s.txie := rfl
@[simp] theorem setRun_ovrCnt (a : Agent) (v : Run) : (s.setRun a v).ovrCnt = s.ovrCnt := rfl
@[simp] theorem setRun_frmCnt (a : Agent) (v : Run) : (s.setRun a v).frmCnt = s.frmCnt := rfl
@[simp] theorem setRun_fault (a : Agent) (v : Run) : (s.setRun a v).fault = s.fault := rfl
@[simp] theorem setRun_run (a : Agent) (v : Run) : (s.setRun a v).run = s.run.set a v := rfl
@[simp] theorem setRun_snap (a : Agent) (v : Run) : (s.setRun a v).snap = s.snap := rfl
@[simp] theorem setRun_seq (a : Agent) (v : Run) : (s.setRun a v).seq = s.seq := rfl
@[simp] theorem setRun_mode (a : Agent) (v : Run) : (s.setRun a v).mode = s.mode := rfl
@[simp] theorem setRun_ports (a : Agent) (v : Run) : (s.setRun a v).ports = s.ports := rfl
@[simp] theorem setRun_issuer (a : Agent) (v : Run) : (s.setRun a v).issuer = s.issuer := rfl
@[simp] theorem setRun_payload (a : Agent) (v : Run) : (s.setRun a v).payload = s.payload := rfl
@[simp] theorem setRun_sched (a : Agent) (v : Run) : (s.setRun a v).sched = s.sched := rfl
@[simp] theorem setRun_dev (a : Agent) (v : Run) : (s.setRun a v).dev = s.dev := rfl
@[simp] theorem setRun_freeCtr (a : Agent) (v : Run) : (s.setRun a v).freeCtr = s.freeCtr := rfl
@[simp] theorem setRun_trace (a : Agent) (v : Run) : (s.setRun a v).trace = s.trace := rfl
@[simp] theorem setRun_responses (a : Agent) (v : Run) :
    (s.setRun a v).responses = s.responses := rfl

/-! ## setSeq -/

@[simp] theorem setSeq_cap (a : Agent) (v : Option Sequencer) : (s.setSeq a v).cap = s.cap := rfl
@[simp] theorem setSeq_storage (a : Agent) (v : Option Sequencer) :
    (s.setSeq a v).storage = s.storage := rfl
@[simp] theorem setSeq_widx (a : Agent) (v : Option Sequencer) : (s.setSeq a v).widx = s.widx := rfl
@[simp] theorem setSeq_ridx (a : Agent) (v : Option Sequencer) : (s.setSeq a v).ridx = s.ridx := rfl
@[simp] theorem setSeq_wake (a : Agent) (v : Option Sequencer) : (s.setSeq a v).wake = s.wake := rfl
@[simp] theorem setSeq_tmr (a : Agent) (v : Option Sequencer) : (s.setSeq a v).tmr = s.tmr := rfl
@[simp] theorem setSeq_rxie (a : Agent) (v : Option Sequencer) : (s.setSeq a v).rxie = s.rxie := rfl
@[simp] theorem setSeq_txie (a : Agent) (v : Option Sequencer) : (s.setSeq a v).txie = s.txie := rfl
@[simp] theorem setSeq_ovrCnt (a : Agent) (v : Option Sequencer) :
    (s.setSeq a v).ovrCnt = s.ovrCnt := rfl
@[simp] theorem setSeq_frmCnt (a : Agent) (v : Option Sequencer) :
    (s.setSeq a v).frmCnt = s.frmCnt := rfl
@[simp] theorem setSeq_fault (a : Agent) (v : Option Sequencer) :
    (s.setSeq a v).fault = s.fault := rfl
@[simp] theorem setSeq_run (a : Agent) (v : Option Sequencer) : (s.setSeq a v).run = s.run := rfl
@[simp] theorem setSeq_snap (a : Agent) (v : Option Sequencer) : (s.setSeq a v).snap = s.snap := rfl
@[simp] theorem setSeq_seq (a : Agent) (v : Option Sequencer) :
    (s.setSeq a v).seq = s.seq.set a v := rfl
@[simp] theorem setSeq_mode (a : Agent) (v : Option Sequencer) : (s.setSeq a v).mode = s.mode := rfl
@[simp] theorem setSeq_ports (a : Agent) (v : Option Sequencer) :
    (s.setSeq a v).ports = s.ports := rfl
@[simp] theorem setSeq_issuer (a : Agent) (v : Option Sequencer) :
    (s.setSeq a v).issuer = s.issuer := rfl
@[simp] theorem setSeq_payload (a : Agent) (v : Option Sequencer) :
    (s.setSeq a v).payload = s.payload := rfl
@[simp] theorem setSeq_sched (a : Agent) (v : Option Sequencer) :
    (s.setSeq a v).sched = s.sched := rfl
@[simp] theorem setSeq_dev (a : Agent) (v : Option Sequencer) : (s.setSeq a v).dev = s.dev := rfl
@[simp] theorem setSeq_freeCtr (a : Agent) (v : Option Sequencer) :
    (s.setSeq a v).freeCtr = s.freeCtr := rfl
@[simp] theorem setSeq_trace (a : Agent) (v : Option Sequencer) :
    (s.setSeq a v).trace = s.trace := rfl
@[simp] theorem setSeq_responses (a : Agent) (v : Option Sequencer) :
    (s.setSeq a v).responses = s.responses := rfl

/-! ## enableRx -/

@[simp] theorem enableRx_cap : (s.enableRx).cap = s.cap := rfl
@[simp] theorem enableRx_storage : (s.enableRx).storage = s.storage := rfl
@[simp] theorem enableRx_widx : (s.enableRx).widx = s.widx := rfl
@[simp] theorem enableRx_ridx : (s.enableRx).ridx = s.ridx := rfl
@[simp] theorem enableRx_wake : (s.enableRx).wake = s.wake := rfl
@[simp] theorem enableRx_tmr : (s.enableRx).tmr = s.tmr := rfl
@[simp] theorem enableRx_rxie : (s.enableRx).rxie = true := rfl
@[simp] theorem enableRx_txie : (s.enableRx).txie = s.txie := rfl
@[simp] theorem enableRx_ovrCnt : (s.enableRx).ovrCnt = s.ovrCnt := rfl
@[simp] theorem enableRx_frmCnt : (s.enableRx).frmCnt = s.frmCnt := rfl
@[simp] theorem enableRx_fault : (s.enableRx).fault = s.fault := rfl
@[simp] theorem enableRx_run : (s.enableRx).run = s.run := rfl
@[simp] theorem enableRx_snap : (s.enableRx).snap = s.snap := rfl
@[simp] theorem enableRx_seq : (s.enableRx).seq = s.seq := rfl
@[simp] theorem enableRx_mode : (s.enableRx).mode = s.mode := rfl
@[simp] theorem enableRx_ports : (s.enableRx).ports = s.ports := rfl
@[simp] theorem enableRx_issuer : (s.enableRx).issuer = s.issuer := rfl
@[simp] theorem enableRx_payload : (s.enableRx).payload = s.payload := rfl
@[simp] theorem enableRx_sched : (s.enableRx).sched = s.sched := rfl
@[simp] theorem enableRx_dev : (s.enableRx).dev = s.dev := rfl
@[simp] theorem enableRx_freeCtr : (s.enableRx).freeCtr = s.freeCtr := rfl
@[simp] theorem enableRx_trace : (s.enableRx).trace = .enableReceiveInterrupt :: s.trace := rfl
@[simp] theorem enableRx_responses : (s.enableRx).responses = s.responses := rfl

/-! ## disableRx -/

@[simp] theorem disableRx_cap : (s.disableRx).cap = s.cap := rfl
@[simp] theorem disableRx_storage : (s.disableRx).storage = s.storage := rfl
@[simp] theorem disableRx_widx : (s.disableRx).widx = s.widx := rfl
@[simp] theorem disableRx_ridx : (s.disableRx).ridx = s.ridx := rfl
@[simp] theorem disableRx_wake : (s.disableRx).wake = s.wake := rfl
@[simp] theorem disableRx_tmr : (s.disableRx).tmr = s.tmr := rfl
@[simp] theorem disableRx_rxie : (s.disableRx).rxie = false := rfl
@[simp] theorem disableRx_txie : (s.disableRx).txie = s.txie := rfl
@[simp] theorem disableRx_ovrCnt : (s.disableRx).ovrCnt = s.ovrCnt := rfl
@[simp] theorem disableRx_frmCnt : (s.disableRx).frmCnt = s.frmCnt := rfl
@[simp] theorem disableRx_fault : (s.disableRx).fault = s.fault := rfl
@[simp] theorem disableRx_run : (s.disableRx).run = s.run := rfl
@[simp] theorem disableRx_snap : (s.disableRx).snap = s.snap := rfl
@[simp] theorem disableRx_seq : (s.disableRx).seq = s.seq := rfl
@[simp] theorem disableRx_mode : (s.disableRx).mode = s.mode := rfl
@[simp] theorem disableRx_ports : (s.disableRx).ports = s.ports := rfl
@[simp] theorem disableRx_issuer : (s.disableRx).issuer = s.issuer := rfl
@[simp] theorem disableRx_payload : (s.disableRx).payload = s.payload := rfl
@[simp] theorem disableRx_sched : (s.disableRx).sched = s.sched := rfl
@[simp] theorem disableRx_dev : (s.disableRx).dev = s.dev := rfl
@[simp] theorem disableRx_freeCtr : (s.disableRx).freeCtr = s.freeCtr := rfl
@[simp] theorem disableRx_trace : (s.disableRx).trace = .disableReceiveInterrupt :: s.trace := rfl
@[simp] theorem disableRx_responses : (s.disableRx).responses = s.responses := rfl

/-! ## enableTx -/

@[simp] theorem enableTx_cap : (s.enableTx).cap = s.cap := rfl
@[simp] theorem enableTx_storage : (s.enableTx).storage = s.storage := rfl
@[simp] theorem enableTx_widx : (s.enableTx).widx = s.widx := rfl
@[simp] theorem enableTx_ridx : (s.enableTx).ridx = s.ridx := rfl
@[simp] theorem enableTx_wake : (s.enableTx).wake = s.wake := rfl
@[simp] theorem enableTx_tmr : (s.enableTx).tmr = s.tmr := rfl
@[simp] theorem enableTx_rxie : (s.enableTx).rxie = s.rxie := rfl
@[simp] theorem enableTx_txie : (s.enableTx).txie = true := rfl
@[simp] theorem enableTx_ovrCnt : (s.enableTx).ovrCnt = s.ovrCnt := rfl
@[simp] theorem enableTx_frmCnt : (s.enableTx).frmCnt = s.frmCnt := rfl
@[simp] theorem enableTx_fault : (s.enableTx).fault = s.fault := rfl
@[simp] theorem enableTx_run : (s.enableTx).run = s.run := rfl
@[simp] theorem enableTx_snap : (s.enableTx).snap = s.snap := rfl
@[simp] theorem enableTx_seq : (s.enableTx).seq = s.seq := rfl
@[simp] theorem enableTx_mode : (s.enableTx).mode = s.mode := rfl
@[simp] theorem enableTx_ports : (s.enableTx).ports = s.ports := rfl
@[simp] theorem enableTx_issuer : (s.enableTx).issuer = s.issuer := rfl
@[simp] theorem enableTx_payload : (s.enableTx).payload = s.payload := rfl
@[simp] theorem enableTx_sched : (s.enableTx).sched = s.sched := rfl
@[simp] theorem enableTx_dev : (s.enableTx).dev = s.dev := rfl
@[simp] theorem enableTx_freeCtr : (s.enableTx).freeCtr = s.freeCtr := rfl
@[simp] theorem enableTx_trace : (s.enableTx).trace = .enableTransmitInterrupt :: s.trace := rfl
@[simp] theorem enableTx_responses : (s.enableTx).responses = s.responses := rfl

/-! ## disableTx -/

@[simp] theorem disableTx_cap : (s.disableTx).cap = s.cap := rfl
@[simp] theorem disableTx_storage : (s.disableTx).storage = s.storage := rfl
@[simp] theorem disableTx_widx : (s.disableTx).widx = s.widx := rfl
@[simp] theorem disableTx_ridx : (s.disableTx).ridx = s.ridx := rfl
@[simp] theorem disableTx_wake : (s.disableTx).wake = s.wake := rfl
@[simp] theorem disableTx_tmr : (s.disableTx).tmr = s.tmr := rfl
@[simp] theorem disableTx_rxie : (s.disableTx).rxie = s.rxie := rfl
@[simp] theorem disableTx_txie : (s.disableTx).txie = false := rfl
@[simp] theorem disableTx_ovrCnt : (s.disableTx).ovrCnt = s.ovrCnt := rfl
@[simp] theorem disableTx_frmCnt : (s.disableTx).frmCnt = s.frmCnt := rfl
@[simp] theorem disableTx_fault : (s.disableTx).fault = s.fault := rfl
@[simp] theorem disableTx_run : (s.disableTx).run = s.run := rfl
@[simp] theorem disableTx_snap : (s.disableTx).snap = s.snap := rfl
@[simp] theorem disableTx_seq : (s.disableTx).seq = s.seq := rfl
@[simp] theorem disableTx_mode : (s.disableTx).mode = s.mode := rfl
@[simp] theorem disableTx_ports : (s.disableTx).ports = s.ports := rfl
@[simp] theorem disableTx_issuer : (s.disableTx).issuer = s.issuer := rfl
@[simp] theorem disableTx_payload : (s.disableTx).payload = s.payload := rfl
@[simp] theorem disableTx_sched : (s.disableTx).sched = s.sched := rfl
@[simp] theorem disableTx_dev : (s.disableTx).dev = s.dev := rfl
@[simp] theorem disableTx_freeCtr : (s.disableTx).freeCtr = s.freeCtr := rfl
@[simp] theorem disableTx_trace : (s.disableTx).trace = .disableTransmitInterrupt :: s.trace := rfl
@[simp] theorem disableTx_responses : (s.disableTx).responses = s.responses := rfl

/-! ## countOverrun -/

@[simp] theorem countOverrun_cap : (s.countOverrun).cap = s.cap := rfl
@[simp] theorem countOverrun_storage : (s.countOverrun).storage = s.storage := rfl
@[simp] theorem countOverrun_widx : (s.countOverrun).widx = s.widx := rfl
@[simp] theorem countOverrun_ridx : (s.countOverrun).ridx = s.ridx := rfl
@[simp] theorem countOverrun_wake : (s.countOverrun).wake = s.wake := rfl
@[simp] theorem countOverrun_tmr : (s.countOverrun).tmr = s.tmr := rfl
@[simp] theorem countOverrun_rxie : (s.countOverrun).rxie = s.rxie := rfl
@[simp] theorem countOverrun_txie : (s.countOverrun).txie = s.txie := rfl
@[simp] theorem countOverrun_ovrCnt : (s.countOverrun).ovrCnt = s.ovrCnt + 1 := rfl
@[simp] theorem countOverrun_frmCnt : (s.countOverrun).frmCnt = s.frmCnt := rfl
@[simp] theorem countOverrun_fault : (s.countOverrun).fault = s.fault := rfl
@[simp] theorem countOverrun_run : (s.countOverrun).run = s.run := rfl
@[simp] theorem countOverrun_snap : (s.countOverrun).snap = s.snap := rfl
@[simp] theorem countOverrun_seq : (s.countOverrun).seq = s.seq := rfl
@[simp] theorem countOverrun_mode : (s.countOverrun).mode = s.mode := rfl
@[simp] theorem countOverrun_ports : (s.countOverrun).ports = s.ports := rfl
@[simp] theorem countOverrun_issuer : (s.countOverrun).issuer = s.issuer := rfl
@[simp] theorem countOverrun_payload : (s.countOverrun).payload = s.payload := rfl
@[simp] theorem countOverrun_sched : (s.countOverrun).sched = s.sched := rfl
@[simp] theorem countOverrun_dev : (s.countOverrun).dev = s.dev := rfl
@[simp] theorem countOverrun_freeCtr : (s.countOverrun).freeCtr = s.freeCtr := rfl
@[simp] theorem countOverrun_trace : (s.countOverrun).trace = s.trace := rfl
@[simp] theorem countOverrun_responses : (s.countOverrun).responses = s.responses := rfl

/-! ## countFraming -/

@[simp] theorem countFraming_cap : (s.countFraming).cap = s.cap := rfl
@[simp] theorem countFraming_storage : (s.countFraming).storage = s.storage := rfl
@[simp] theorem countFraming_widx : (s.countFraming).widx = s.widx := rfl
@[simp] theorem countFraming_ridx : (s.countFraming).ridx = s.ridx := rfl
@[simp] theorem countFraming_wake : (s.countFraming).wake = s.wake := rfl
@[simp] theorem countFraming_tmr : (s.countFraming).tmr = s.tmr := rfl
@[simp] theorem countFraming_rxie : (s.countFraming).rxie = s.rxie := rfl
@[simp] theorem countFraming_txie : (s.countFraming).txie = s.txie := rfl
@[simp] theorem countFraming_ovrCnt : (s.countFraming).ovrCnt = s.ovrCnt := rfl
@[simp] theorem countFraming_frmCnt : (s.countFraming).frmCnt = s.frmCnt + 1 := rfl
@[simp] theorem countFraming_fault : (s.countFraming).fault = s.fault := rfl
@[simp] theorem countFraming_run : (s.countFraming).run = s.run := rfl
@[simp] theorem countFraming_snap : (s.countFraming).snap = s.snap := rfl
@[simp] theorem countFraming_seq : (s.countFraming).seq = s.seq := rfl
@[simp] theorem countFraming_mode : (s.countFraming).mode = s.mode := rfl
@[simp] theorem countFraming_ports : (s.countFraming).ports = s.ports := rfl
@[simp] theorem countFraming_issuer : (s.countFraming).issuer = s.issuer := rfl
@[simp] theorem countFraming_payload : (s.countFraming).payload = s.payload := rfl
@[simp] theorem countFraming_sched : (s.countFraming).sched = s.sched := rfl
@[simp] theorem countFraming_dev : (s.countFraming).dev = s.dev := rfl
@[simp] theorem countFraming_freeCtr : (s.countFraming).freeCtr = s.freeCtr := rfl
@[simp] theorem countFraming_trace : (s.countFraming).trace = s.trace := rfl
@[simp] theorem countFraming_responses : (s.countFraming).responses = s.responses := rfl

/-! ## respond -/

@[simp] theorem respond_cap (a : Agent) (r : Reply) : (s.respond a r).cap = s.cap := rfl
@[simp] theorem respond_storage (a : Agent) (r : Reply) : (s.respond a r).storage = s.storage := rfl
@[simp] theorem respond_widx (a : Agent) (r : Reply) : (s.respond a r).widx = s.widx := rfl
@[simp] theorem respond_ridx (a : Agent) (r : Reply) : (s.respond a r).ridx = s.ridx := rfl
@[simp] theorem respond_wake (a : Agent) (r : Reply) : (s.respond a r).wake = s.wake := rfl
@[simp] theorem respond_tmr (a : Agent) (r : Reply) : (s.respond a r).tmr = s.tmr := rfl
@[simp] theorem respond_rxie (a : Agent) (r : Reply) : (s.respond a r).rxie = s.rxie := rfl
@[simp] theorem respond_txie (a : Agent) (r : Reply) : (s.respond a r).txie = s.txie := rfl
@[simp] theorem respond_ovrCnt (a : Agent) (r : Reply) : (s.respond a r).ovrCnt = s.ovrCnt := rfl
@[simp] theorem respond_frmCnt (a : Agent) (r : Reply) : (s.respond a r).frmCnt = s.frmCnt := rfl
@[simp] theorem respond_fault (a : Agent) (r : Reply) : (s.respond a r).fault = s.fault := rfl
@[simp] theorem respond_run (a : Agent) (r : Reply) : (s.respond a r).run = s.run := rfl
@[simp] theorem respond_snap (a : Agent) (r : Reply) : (s.respond a r).snap = s.snap := rfl
@[simp] theorem respond_seq (a : Agent) (r : Reply) : (s.respond a r).seq = s.seq := rfl
@[simp] theorem respond_mode (a : Agent) (r : Reply) : (s.respond a r).mode = s.mode := rfl
@[simp] theorem respond_ports (a : Agent) (r : Reply) : (s.respond a r).ports = s.ports := rfl
@[simp] theorem respond_issuer (a : Agent) (r : Reply) : (s.respond a r).issuer = s.issuer := rfl
@[simp] theorem respond_payload (a : Agent) (r : Reply) : (s.respond a r).payload = s.payload := rfl
@[simp] theorem respond_sched (a : Agent) (r : Reply) : (s.respond a r).sched = s.sched := rfl
@[simp] theorem respond_dev (a : Agent) (r : Reply) : (s.respond a r).dev = s.dev := rfl
@[simp] theorem respond_freeCtr (a : Agent) (r : Reply) : (s.respond a r).freeCtr = s.freeCtr := rfl
@[simp] theorem respond_trace (a : Agent) (r : Reply) : (s.respond a r).trace = s.trace := rfl
@[simp] theorem respond_responses (a : Agent) (r : Reply) :
    (s.respond a r).responses = ⟨a, r.word, r.data⟩ :: s.responses := rfl

/-! ## violation -/

@[simp] theorem violation_cap (a : Agent) (code : ViolationCode) (ch : Chan) :
    (s.violation a code ch).cap = s.cap := rfl
@[simp] theorem violation_storage (a : Agent) (code : ViolationCode) (ch : Chan) :
    (s.violation a code ch).storage = s.storage := rfl
@[simp] theorem violation_widx (a : Agent) (code : ViolationCode) (ch : Chan) :
    (s.violation a code ch).widx = s.widx := rfl
@[simp] theorem violation_ridx (a : Agent) (code : ViolationCode) (ch : Chan) :
    (s.violation a code ch).ridx = s.ridx := rfl
@[simp] theorem violation_wake (a : Agent) (code : ViolationCode) (ch : Chan) :
    (s.violation a code ch).wake = s.wake := rfl
@[simp] theorem violation_tmr (a : Agent) (code : ViolationCode) (ch : Chan) :
    (s.violation a code ch).tmr = s.tmr := rfl
@[simp] theorem violation_rxie (a : Agent) (code : ViolationCode) (ch : Chan) :
    (s.violation a code ch).rxie = s.rxie := rfl
@[simp] theorem violation_txie (a : Agent) (code : ViolationCode) (ch : Chan) :
    (s.violation a code ch).txie = s.txie := rfl
@[simp] theorem violation_ovrCnt (a : Agent) (code : ViolationCode) (ch : Chan) :
    (s.violation a code ch).ovrCnt = s.ovrCnt := rfl
@[simp] theorem violation_frmCnt (a : Agent) (code : ViolationCode) (ch : Chan) :
    (s.violation a code ch).frmCnt = s.frmCnt := rfl
@[simp] theorem violation_fault (a : Agent) (code : ViolationCode) (ch : Chan) :
    (s.violation a code ch).fault = (match s.fault with | none => some ⟨code, ch, a⟩ | some v => some v) := rfl
@[simp] theorem violation_run (a : Agent) (code : ViolationCode) (ch : Chan) :
    (s.violation a code ch).run = s.run.set a .halted := rfl
@[simp] theorem violation_snap (a : Agent) (code : ViolationCode) (ch : Chan) :
    (s.violation a code ch).snap = s.snap := rfl
@[simp] theorem violation_seq (a : Agent) (code : ViolationCode) (ch : Chan) :
    (s.violation a code ch).seq = s.seq := rfl
@[simp] theorem violation_mode (a : Agent) (code : ViolationCode) (ch : Chan) :
    (s.violation a code ch).mode = s.mode := rfl
@[simp] theorem violation_ports (a : Agent) (code : ViolationCode) (ch : Chan) :
    (s.violation a code ch).ports = s.ports := rfl
@[simp] theorem violation_issuer (a : Agent) (code : ViolationCode) (ch : Chan) :
    (s.violation a code ch).issuer = s.issuer := rfl
@[simp] theorem violation_payload (a : Agent) (code : ViolationCode) (ch : Chan) :
    (s.violation a code ch).payload = s.payload := rfl
@[simp] theorem violation_sched (a : Agent) (code : ViolationCode) (ch : Chan) :
    (s.violation a code ch).sched = s.sched := rfl
@[simp] theorem violation_dev (a : Agent) (code : ViolationCode) (ch : Chan) :
    (s.violation a code ch).dev = s.dev := rfl
@[simp] theorem violation_freeCtr (a : Agent) (code : ViolationCode) (ch : Chan) :
    (s.violation a code ch).freeCtr = s.freeCtr := rfl
@[simp] theorem violation_trace (a : Agent) (code : ViolationCode) (ch : Chan) :
    (s.violation a code ch).trace = s.trace := rfl
@[simp] theorem violation_responses (a : Agent) (code : ViolationCode) (ch : Chan) :
    (s.violation a code ch).responses = s.responses := rfl

/-! ## constructChan -/

@[simp] theorem constructChan_cap (ch : Chan) (capv : Index) :
    (s.constructChan ch capv).cap = s.cap.set ch capv := rfl
@[simp] theorem constructChan_storage (ch : Chan) (capv : Index) :
    (s.constructChan ch capv).storage = s.storage.set ch [] := rfl
@[simp] theorem constructChan_widx (ch : Chan) (capv : Index) :
    (s.constructChan ch capv).widx = s.widx.set ch 0 := rfl
@[simp] theorem constructChan_ridx (ch : Chan) (capv : Index) :
    (s.constructChan ch capv).ridx = s.ridx.set ch 0 := rfl
@[simp] theorem constructChan_wake (ch : Chan) (capv : Index) :
    (s.constructChan ch capv).wake = s.wake.set ch .idle := rfl
@[simp] theorem constructChan_tmr (ch : Chan) (capv : Index) :
    (s.constructChan ch capv).tmr = (if ch = .rx then .idle else s.tmr) := rfl
@[simp] theorem constructChan_rxie (ch : Chan) (capv : Index) :
    (s.constructChan ch capv).rxie = s.rxie := rfl
@[simp] theorem constructChan_txie (ch : Chan) (capv : Index) :
    (s.constructChan ch capv).txie = s.txie := rfl
@[simp] theorem constructChan_ovrCnt (ch : Chan) (capv : Index) :
    (s.constructChan ch capv).ovrCnt = s.ovrCnt := rfl
@[simp] theorem constructChan_frmCnt (ch : Chan) (capv : Index) :
    (s.constructChan ch capv).frmCnt = s.frmCnt := rfl
@[simp] theorem constructChan_fault (ch : Chan) (capv : Index) :
    (s.constructChan ch capv).fault = s.fault := rfl
@[simp] theorem constructChan_run (ch : Chan) (capv : Index) :
    (s.constructChan ch capv).run = s.run := rfl
@[simp] theorem constructChan_snap (ch : Chan) (capv : Index) :
    (s.constructChan ch capv).snap = s.snap.set ch ⟨0, 0⟩ := rfl
@[simp] theorem constructChan_seq (ch : Chan) (capv : Index) :
    (s.constructChan ch capv).seq = s.seq := rfl
@[simp] theorem constructChan_mode (ch : Chan) (capv : Index) :
    (s.constructChan ch capv).mode = s.mode := rfl
@[simp] theorem constructChan_ports (ch : Chan) (capv : Index) :
    (s.constructChan ch capv).ports = s.ports := rfl
@[simp] theorem constructChan_issuer (ch : Chan) (capv : Index) :
    (s.constructChan ch capv).issuer = s.issuer := rfl
@[simp] theorem constructChan_payload (ch : Chan) (capv : Index) :
    (s.constructChan ch capv).payload = s.payload := rfl
@[simp] theorem constructChan_sched (ch : Chan) (capv : Index) :
    (s.constructChan ch capv).sched = s.sched := rfl
@[simp] theorem constructChan_dev (ch : Chan) (capv : Index) :
    (s.constructChan ch capv).dev = s.dev := rfl
@[simp] theorem constructChan_freeCtr (ch : Chan) (capv : Index) :
    (s.constructChan ch capv).freeCtr = s.freeCtr := rfl
@[simp] theorem constructChan_trace (ch : Chan) (capv : Index) :
    (s.constructChan ch capv).trace = s.trace := rfl
@[simp] theorem constructChan_responses (ch : Chan) (capv : Index) :
    (s.constructChan ch capv).responses = s.responses := rfl

/-! ## armTimer -/

@[simp] theorem armTimer_cap : (s.armTimer).cap = s.cap := by unfold State.armTimer; split <;> rfl
@[simp] theorem armTimer_storage : (s.armTimer).storage = s.storage := by unfold State.armTimer; split <;> rfl
@[simp] theorem armTimer_widx : (s.armTimer).widx = s.widx := by unfold State.armTimer; split <;> rfl
@[simp] theorem armTimer_ridx : (s.armTimer).ridx = s.ridx := by unfold State.armTimer; split <;> rfl
@[simp] theorem armTimer_wake : (s.armTimer).wake = s.wake := by unfold State.armTimer; split <;> rfl
@[simp] theorem armTimer_rxie : (s.armTimer).rxie = s.rxie := by unfold State.armTimer; split <;> rfl
@[simp] theorem armTimer_txie : (s.armTimer).txie = s.txie := by unfold State.armTimer; split <;> rfl
@[simp] theorem armTimer_ovrCnt : (s.armTimer).ovrCnt = s.ovrCnt := by unfold State.armTimer; split <;> rfl
@[simp] theorem armTimer_frmCnt : (s.armTimer).frmCnt = s.frmCnt := by unfold State.armTimer; split <;> rfl
@[simp] theorem armTimer_fault : (s.armTimer).fault = s.fault := by unfold State.armTimer; split <;> rfl
@[simp] theorem armTimer_run : (s.armTimer).run = s.run := by unfold State.armTimer; split <;> rfl
@[simp] theorem armTimer_snap : (s.armTimer).snap = s.snap := by unfold State.armTimer; split <;> rfl
@[simp] theorem armTimer_seq : (s.armTimer).seq = s.seq := by unfold State.armTimer; split <;> rfl
@[simp] theorem armTimer_mode : (s.armTimer).mode = s.mode := by unfold State.armTimer; split <;> rfl
@[simp] theorem armTimer_ports : (s.armTimer).ports = s.ports := by unfold State.armTimer; split <;> rfl
@[simp] theorem armTimer_issuer : (s.armTimer).issuer = s.issuer := by unfold State.armTimer; split <;> rfl
@[simp] theorem armTimer_payload : (s.armTimer).payload = s.payload := by unfold State.armTimer; split <;> rfl
@[simp] theorem armTimer_sched : (s.armTimer).sched = s.sched := by unfold State.armTimer; split <;> rfl
@[simp] theorem armTimer_dev : (s.armTimer).dev = s.dev := by unfold State.armTimer; split <;> rfl
@[simp] theorem armTimer_freeCtr : (s.armTimer).freeCtr = s.freeCtr := by unfold State.armTimer; split <;> rfl
@[simp] theorem armTimer_responses : (s.armTimer).responses = s.responses := by unfold State.armTimer; split <;> rfl

/-! ## stopTimer -/

@[simp] theorem stopTimer_cap : (s.stopTimer).cap = s.cap := by unfold State.stopTimer; split <;> rfl
@[simp] theorem stopTimer_storage : (s.stopTimer).storage = s.storage := by unfold State.stopTimer; split <;> rfl
@[simp] theorem stopTimer_widx : (s.stopTimer).widx = s.widx := by unfold State.stopTimer; split <;> rfl
@[simp] theorem stopTimer_ridx : (s.stopTimer).ridx = s.ridx := by unfold State.stopTimer; split <;> rfl
@[simp] theorem stopTimer_wake : (s.stopTimer).wake = s.wake := by unfold State.stopTimer; split <;> rfl
@[simp] theorem stopTimer_rxie : (s.stopTimer).rxie = s.rxie := by unfold State.stopTimer; split <;> rfl
@[simp] theorem stopTimer_txie : (s.stopTimer).txie = s.txie := by unfold State.stopTimer; split <;> rfl
@[simp] theorem stopTimer_ovrCnt : (s.stopTimer).ovrCnt = s.ovrCnt := by unfold State.stopTimer; split <;> rfl
@[simp] theorem stopTimer_frmCnt : (s.stopTimer).frmCnt = s.frmCnt := by unfold State.stopTimer; split <;> rfl
@[simp] theorem stopTimer_fault : (s.stopTimer).fault = s.fault := by unfold State.stopTimer; split <;> rfl
@[simp] theorem stopTimer_run : (s.stopTimer).run = s.run := by unfold State.stopTimer; split <;> rfl
@[simp] theorem stopTimer_snap : (s.stopTimer).snap = s.snap := by unfold State.stopTimer; split <;> rfl
@[simp] theorem stopTimer_seq : (s.stopTimer).seq = s.seq := by unfold State.stopTimer; split <;> rfl
@[simp] theorem stopTimer_mode : (s.stopTimer).mode = s.mode := by unfold State.stopTimer; split <;> rfl
@[simp] theorem stopTimer_ports : (s.stopTimer).ports = s.ports := by unfold State.stopTimer; split <;> rfl
@[simp] theorem stopTimer_issuer : (s.stopTimer).issuer = s.issuer := by unfold State.stopTimer; split <;> rfl
@[simp] theorem stopTimer_payload : (s.stopTimer).payload = s.payload := by unfold State.stopTimer; split <;> rfl
@[simp] theorem stopTimer_sched : (s.stopTimer).sched = s.sched := by unfold State.stopTimer; split <;> rfl
@[simp] theorem stopTimer_dev : (s.stopTimer).dev = s.dev := by unfold State.stopTimer; split <;> rfl
@[simp] theorem stopTimer_freeCtr : (s.stopTimer).freeCtr = s.freeCtr := by unfold State.stopTimer; split <;> rfl
@[simp] theorem stopTimer_responses : (s.stopTimer).responses = s.responses := by unfold State.stopTimer; split <;> rfl

/-! ## raiseWake -/

@[simp] theorem raiseWake_cap (ch : Chan) : (s.raiseWake ch).cap = s.cap := by unfold State.raiseWake; split <;> rfl
@[simp] theorem raiseWake_storage (ch : Chan) : (s.raiseWake ch).storage = s.storage := by unfold State.raiseWake; split <;> rfl
@[simp] theorem raiseWake_widx (ch : Chan) : (s.raiseWake ch).widx = s.widx := by unfold State.raiseWake; split <;> rfl
@[simp] theorem raiseWake_ridx (ch : Chan) : (s.raiseWake ch).ridx = s.ridx := by unfold State.raiseWake; split <;> rfl
@[simp] theorem raiseWake_tmr (ch : Chan) : (s.raiseWake ch).tmr = s.tmr := by unfold State.raiseWake; split <;> rfl
@[simp] theorem raiseWake_rxie (ch : Chan) : (s.raiseWake ch).rxie = s.rxie := by unfold State.raiseWake; split <;> rfl
@[simp] theorem raiseWake_txie (ch : Chan) : (s.raiseWake ch).txie = s.txie := by unfold State.raiseWake; split <;> rfl
@[simp] theorem raiseWake_ovrCnt (ch : Chan) : (s.raiseWake ch).ovrCnt = s.ovrCnt := by unfold State.raiseWake; split <;> rfl
@[simp] theorem raiseWake_frmCnt (ch : Chan) : (s.raiseWake ch).frmCnt = s.frmCnt := by unfold State.raiseWake; split <;> rfl
@[simp] theorem raiseWake_fault (ch : Chan) : (s.raiseWake ch).fault = s.fault := by unfold State.raiseWake; split <;> rfl
@[simp] theorem raiseWake_snap (ch : Chan) : (s.raiseWake ch).snap = s.snap := by unfold State.raiseWake; split <;> rfl
@[simp] theorem raiseWake_seq (ch : Chan) : (s.raiseWake ch).seq = s.seq := by unfold State.raiseWake; split <;> rfl
@[simp] theorem raiseWake_mode (ch : Chan) : (s.raiseWake ch).mode = s.mode := by unfold State.raiseWake; split <;> rfl
@[simp] theorem raiseWake_ports (ch : Chan) : (s.raiseWake ch).ports = s.ports := by unfold State.raiseWake; split <;> rfl
@[simp] theorem raiseWake_issuer (ch : Chan) : (s.raiseWake ch).issuer = s.issuer := by unfold State.raiseWake; split <;> rfl
@[simp] theorem raiseWake_payload (ch : Chan) : (s.raiseWake ch).payload = s.payload := by unfold State.raiseWake; split <;> rfl
@[simp] theorem raiseWake_sched (ch : Chan) : (s.raiseWake ch).sched = s.sched := by unfold State.raiseWake; split <;> rfl
@[simp] theorem raiseWake_dev (ch : Chan) : (s.raiseWake ch).dev = s.dev := by unfold State.raiseWake; split <;> rfl
@[simp] theorem raiseWake_freeCtr (ch : Chan) : (s.raiseWake ch).freeCtr = s.freeCtr := by unfold State.raiseWake; split <;> rfl
@[simp] theorem raiseWake_trace (ch : Chan) : (s.raiseWake ch).trace = s.trace := by unfold State.raiseWake; split <;> rfl
@[simp] theorem raiseWake_responses (ch : Chan) : (s.raiseWake ch).responses = s.responses := by unfold State.raiseWake; split <;> rfl

/-! ## resetWake -/

@[simp] theorem resetWake_cap (ch : Chan) : (s.resetWake ch).cap = s.cap := by unfold State.resetWake; split <;> rfl
@[simp] theorem resetWake_storage (ch : Chan) : (s.resetWake ch).storage = s.storage := by unfold State.resetWake; split <;> rfl
@[simp] theorem resetWake_widx (ch : Chan) : (s.resetWake ch).widx = s.widx := by unfold State.resetWake; split <;> rfl
@[simp] theorem resetWake_ridx (ch : Chan) : (s.resetWake ch).ridx = s.ridx := by unfold State.resetWake; split <;> rfl
@[simp] theorem resetWake_tmr (ch : Chan) : (s.resetWake ch).tmr = s.tmr := by unfold State.resetWake; split <;> rfl
@[simp] theorem resetWake_rxie (ch : Chan) : (s.resetWake ch).rxie = s.rxie := by unfold State.resetWake; split <;> rfl
@[simp] theorem resetWake_txie (ch : Chan) : (s.resetWake ch).txie = s.txie := by unfold State.resetWake; split <;> rfl
@[simp] theorem resetWake_ovrCnt (ch : Chan) : (s.resetWake ch).ovrCnt = s.ovrCnt := by unfold State.resetWake; split <;> rfl
@[simp] theorem resetWake_frmCnt (ch : Chan) : (s.resetWake ch).frmCnt = s.frmCnt := by unfold State.resetWake; split <;> rfl
@[simp] theorem resetWake_fault (ch : Chan) : (s.resetWake ch).fault = s.fault := by unfold State.resetWake; split <;> rfl
@[simp] theorem resetWake_run (ch : Chan) : (s.resetWake ch).run = s.run := by unfold State.resetWake; split <;> rfl
@[simp] theorem resetWake_snap (ch : Chan) : (s.resetWake ch).snap = s.snap := by unfold State.resetWake; split <;> rfl
@[simp] theorem resetWake_seq (ch : Chan) : (s.resetWake ch).seq = s.seq := by unfold State.resetWake; split <;> rfl
@[simp] theorem resetWake_mode (ch : Chan) : (s.resetWake ch).mode = s.mode := by unfold State.resetWake; split <;> rfl
@[simp] theorem resetWake_ports (ch : Chan) : (s.resetWake ch).ports = s.ports := by unfold State.resetWake; split <;> rfl
@[simp] theorem resetWake_issuer (ch : Chan) : (s.resetWake ch).issuer = s.issuer := by unfold State.resetWake; split <;> rfl
@[simp] theorem resetWake_payload (ch : Chan) : (s.resetWake ch).payload = s.payload := by unfold State.resetWake; split <;> rfl
@[simp] theorem resetWake_sched (ch : Chan) : (s.resetWake ch).sched = s.sched := by unfold State.resetWake; split <;> rfl
@[simp] theorem resetWake_dev (ch : Chan) : (s.resetWake ch).dev = s.dev := by unfold State.resetWake; split <;> rfl
@[simp] theorem resetWake_freeCtr (ch : Chan) : (s.resetWake ch).freeCtr = s.freeCtr := by unfold State.resetWake; split <;> rfl
@[simp] theorem resetWake_trace (ch : Chan) : (s.resetWake ch).trace = s.trace := by unfold State.resetWake; split <;> rfl
@[simp] theorem resetWake_responses (ch : Chan) : (s.resetWake ch).responses = s.responses := by unfold State.resetWake; split <;> rfl

/-! ## fireTimer -/

@[simp] theorem fireTimer_cap : (s.fireTimer).cap = s.cap := by simp [State.fireTimer]
@[simp] theorem fireTimer_storage : (s.fireTimer).storage = s.storage := by simp [State.fireTimer]
@[simp] theorem fireTimer_widx : (s.fireTimer).widx = s.widx := by simp [State.fireTimer]
@[simp] theorem fireTimer_ridx : (s.fireTimer).ridx = s.ridx := by simp [State.fireTimer]
@[simp] theorem fireTimer_rxie : (s.fireTimer).rxie = s.rxie := by simp [State.fireTimer]
@[simp] theorem fireTimer_txie : (s.fireTimer).txie = s.txie := by simp [State.fireTimer]
@[simp] theorem fireTimer_ovrCnt : (s.fireTimer).ovrCnt = s.ovrCnt := by simp [State.fireTimer]
@[simp] theorem fireTimer_frmCnt : (s.fireTimer).frmCnt = s.frmCnt := by simp [State.fireTimer]
@[simp] theorem fireTimer_fault : (s.fireTimer).fault = s.fault := by simp [State.fireTimer]
@[simp] theorem fireTimer_snap : (s.fireTimer).snap = s.snap := by simp [State.fireTimer]
@[simp] theorem fireTimer_seq : (s.fireTimer).seq = s.seq := by simp [State.fireTimer]
@[simp] theorem fireTimer_mode : (s.fireTimer).mode = s.mode := by simp [State.fireTimer]
@[simp] theorem fireTimer_ports : (s.fireTimer).ports = s.ports := by simp [State.fireTimer]
@[simp] theorem fireTimer_issuer : (s.fireTimer).issuer = s.issuer := by simp [State.fireTimer]
@[simp] theorem fireTimer_payload : (s.fireTimer).payload = s.payload := by simp [State.fireTimer]
@[simp] theorem fireTimer_sched : (s.fireTimer).sched = s.sched := by simp [State.fireTimer]
@[simp] theorem fireTimer_dev : (s.fireTimer).dev = s.dev := by simp [State.fireTimer]
@[simp] theorem fireTimer_freeCtr : (s.fireTimer).freeCtr = s.freeCtr := by simp [State.fireTimer]
@[simp] theorem fireTimer_trace : (s.fireTimer).trace = s.trace := by simp [State.fireTimer]
@[simp] theorem fireTimer_responses : (s.fireTimer).responses = s.responses := by simp [State.fireTimer]

/-! ## devPoll -/

@[simp] theorem devPoll_cap : (s.devPoll).2.cap = s.cap := by unfold State.devPoll; split <;> rfl
@[simp] theorem devPoll_storage : (s.devPoll).2.storage = s.storage := by unfold State.devPoll; split <;> rfl
@[simp] theorem devPoll_widx : (s.devPoll).2.widx = s.widx := by unfold State.devPoll; split <;> rfl
@[simp] theorem devPoll_ridx : (s.devPoll).2.ridx = s.ridx := by unfold State.devPoll; split <;> rfl
@[simp] theorem devPoll_wake : (s.devPoll).2.wake = s.wake := by unfold State.devPoll; split <;> rfl
@[simp] theorem devPoll_tmr : (s.devPoll).2.tmr = s.tmr := by unfold State.devPoll; split <;> rfl
@[simp] theorem devPoll_rxie : (s.devPoll).2.rxie = s.rxie := by unfold State.devPoll; split <;> rfl
@[simp] theorem devPoll_txie : (s.devPoll).2.txie = s.txie := by unfold State.devPoll; split <;> rfl
@[simp] theorem devPoll_ovrCnt : (s.devPoll).2.ovrCnt = s.ovrCnt := by unfold State.devPoll; split <;> rfl
@[simp] theorem devPoll_frmCnt : (s.devPoll).2.frmCnt = s.frmCnt := by unfold State.devPoll; split <;> rfl
@[simp] theorem devPoll_fault : (s.devPoll).2.fault = s.fault := by unfold State.devPoll; split <;> rfl
@[simp] theorem devPoll_run : (s.devPoll).2.run = s.run := by unfold State.devPoll; split <;> rfl
@[simp] theorem devPoll_snap : (s.devPoll).2.snap = s.snap := by unfold State.devPoll; split <;> rfl
@[simp] theorem devPoll_seq : (s.devPoll).2.seq = s.seq := by unfold State.devPoll; split <;> rfl
@[simp] theorem devPoll_mode : (s.devPoll).2.mode = s.mode := by unfold State.devPoll; split <;> rfl
@[simp] theorem devPoll_ports : (s.devPoll).2.ports = s.ports := by unfold State.devPoll; split <;> rfl
@[simp] theorem devPoll_issuer : (s.devPoll).2.issuer = s.issuer := by unfold State.devPoll; split <;> rfl
@[simp] theorem devPoll_payload : (s.devPoll).2.payload = s.payload := by unfold State.devPoll; split <;> rfl
@[simp] theorem devPoll_sched : (s.devPoll).2.sched = s.sched := by unfold State.devPoll; split <;> rfl
@[simp] theorem devPoll_responses : (s.devPoll).2.responses = s.responses := by unfold State.devPoll; split <;> rfl

/-! ## devRxReady -/

@[simp] theorem devRxReady_cap : (s.devRxReady).2.cap = s.cap := by unfold State.devRxReady; split <;> rfl
@[simp] theorem devRxReady_storage : (s.devRxReady).2.storage = s.storage := by unfold State.devRxReady; split <;> rfl
@[simp] theorem devRxReady_widx : (s.devRxReady).2.widx = s.widx := by unfold State.devRxReady; split <;> rfl
@[simp] theorem devRxReady_ridx : (s.devRxReady).2.ridx = s.ridx := by unfold State.devRxReady; split <;> rfl
@[simp] theorem devRxReady_wake : (s.devRxReady).2.wake = s.wake := by unfold State.devRxReady; split <;> rfl
@[simp] theorem devRxReady_tmr : (s.devRxReady).2.tmr = s.tmr := by unfold State.devRxReady; split <;> rfl
@[simp] theorem devRxReady_rxie : (s.devRxReady).2.rxie = s.rxie := by unfold State.devRxReady; split <;> rfl
@[simp] theorem devRxReady_txie : (s.devRxReady).2.txie = s.txie := by unfold State.devRxReady; split <;> rfl
@[simp] theorem devRxReady_ovrCnt : (s.devRxReady).2.ovrCnt = s.ovrCnt := by unfold State.devRxReady; split <;> rfl
@[simp] theorem devRxReady_frmCnt : (s.devRxReady).2.frmCnt = s.frmCnt := by unfold State.devRxReady; split <;> rfl
@[simp] theorem devRxReady_fault : (s.devRxReady).2.fault = s.fault := by unfold State.devRxReady; split <;> rfl
@[simp] theorem devRxReady_run : (s.devRxReady).2.run = s.run := by unfold State.devRxReady; split <;> rfl
@[simp] theorem devRxReady_snap : (s.devRxReady).2.snap = s.snap := by unfold State.devRxReady; split <;> rfl
@[simp] theorem devRxReady_seq : (s.devRxReady).2.seq = s.seq := by unfold State.devRxReady; split <;> rfl
@[simp] theorem devRxReady_mode : (s.devRxReady).2.mode = s.mode := by unfold State.devRxReady; split <;> rfl
@[simp] theorem devRxReady_ports : (s.devRxReady).2.ports = s.ports := by unfold State.devRxReady; split <;> rfl
@[simp] theorem devRxReady_issuer : (s.devRxReady).2.issuer = s.issuer := by unfold State.devRxReady; split <;> rfl
@[simp] theorem devRxReady_payload : (s.devRxReady).2.payload = s.payload := by unfold State.devRxReady; split <;> rfl
@[simp] theorem devRxReady_sched : (s.devRxReady).2.sched = s.sched := by unfold State.devRxReady; split <;> rfl
@[simp] theorem devRxReady_responses : (s.devRxReady).2.responses = s.responses := by unfold State.devRxReady; split <;> rfl

/-! ## devTxReady -/

@[simp] theorem devTxReady_cap : (s.devTxReady).2.cap = s.cap := by unfold State.devTxReady; split <;> rfl
@[simp] theorem devTxReady_storage : (s.devTxReady).2.storage = s.storage := by unfold State.devTxReady; split <;> rfl
@[simp] theorem devTxReady_widx : (s.devTxReady).2.widx = s.widx := by unfold State.devTxReady; split <;> rfl
@[simp] theorem devTxReady_ridx : (s.devTxReady).2.ridx = s.ridx := by unfold State.devTxReady; split <;> rfl
@[simp] theorem devTxReady_wake : (s.devTxReady).2.wake = s.wake := by unfold State.devTxReady; split <;> rfl
@[simp] theorem devTxReady_tmr : (s.devTxReady).2.tmr = s.tmr := by unfold State.devTxReady; split <;> rfl
@[simp] theorem devTxReady_rxie : (s.devTxReady).2.rxie = s.rxie := by unfold State.devTxReady; split <;> rfl
@[simp] theorem devTxReady_txie : (s.devTxReady).2.txie = s.txie := by unfold State.devTxReady; split <;> rfl
@[simp] theorem devTxReady_ovrCnt : (s.devTxReady).2.ovrCnt = s.ovrCnt := by unfold State.devTxReady; split <;> rfl
@[simp] theorem devTxReady_frmCnt : (s.devTxReady).2.frmCnt = s.frmCnt := by unfold State.devTxReady; split <;> rfl
@[simp] theorem devTxReady_fault : (s.devTxReady).2.fault = s.fault := by unfold State.devTxReady; split <;> rfl
@[simp] theorem devTxReady_run : (s.devTxReady).2.run = s.run := by unfold State.devTxReady; split <;> rfl
@[simp] theorem devTxReady_snap : (s.devTxReady).2.snap = s.snap := by unfold State.devTxReady; split <;> rfl
@[simp] theorem devTxReady_seq : (s.devTxReady).2.seq = s.seq := by unfold State.devTxReady; split <;> rfl
@[simp] theorem devTxReady_mode : (s.devTxReady).2.mode = s.mode := by unfold State.devTxReady; split <;> rfl
@[simp] theorem devTxReady_ports : (s.devTxReady).2.ports = s.ports := by unfold State.devTxReady; split <;> rfl
@[simp] theorem devTxReady_issuer : (s.devTxReady).2.issuer = s.issuer := by unfold State.devTxReady; split <;> rfl
@[simp] theorem devTxReady_payload : (s.devTxReady).2.payload = s.payload := by unfold State.devTxReady; split <;> rfl
@[simp] theorem devTxReady_sched : (s.devTxReady).2.sched = s.sched := by unfold State.devTxReady; split <;> rfl
@[simp] theorem devTxReady_responses : (s.devTxReady).2.responses = s.responses := by unfold State.devTxReady; split <;> rfl

/-! ## devRead -/

@[simp] theorem devRead_cap : (s.devRead).2.cap = s.cap := by unfold State.devRead; split <;> rfl
@[simp] theorem devRead_storage : (s.devRead).2.storage = s.storage := by unfold State.devRead; split <;> rfl
@[simp] theorem devRead_widx : (s.devRead).2.widx = s.widx := by unfold State.devRead; split <;> rfl
@[simp] theorem devRead_ridx : (s.devRead).2.ridx = s.ridx := by unfold State.devRead; split <;> rfl
@[simp] theorem devRead_wake : (s.devRead).2.wake = s.wake := by unfold State.devRead; split <;> rfl
@[simp] theorem devRead_tmr : (s.devRead).2.tmr = s.tmr := by unfold State.devRead; split <;> rfl
@[simp] theorem devRead_rxie : (s.devRead).2.rxie = s.rxie := by unfold State.devRead; split <;> rfl
@[simp] theorem devRead_txie : (s.devRead).2.txie = s.txie := by unfold State.devRead; split <;> rfl
@[simp] theorem devRead_ovrCnt : (s.devRead).2.ovrCnt = s.ovrCnt := by unfold State.devRead; split <;> rfl
@[simp] theorem devRead_frmCnt : (s.devRead).2.frmCnt = s.frmCnt := by unfold State.devRead; split <;> rfl
@[simp] theorem devRead_fault : (s.devRead).2.fault = s.fault := by unfold State.devRead; split <;> rfl
@[simp] theorem devRead_run : (s.devRead).2.run = s.run := by unfold State.devRead; split <;> rfl
@[simp] theorem devRead_snap : (s.devRead).2.snap = s.snap := by unfold State.devRead; split <;> rfl
@[simp] theorem devRead_seq : (s.devRead).2.seq = s.seq := by unfold State.devRead; split <;> rfl
@[simp] theorem devRead_mode : (s.devRead).2.mode = s.mode := by unfold State.devRead; split <;> rfl
@[simp] theorem devRead_ports : (s.devRead).2.ports = s.ports := by unfold State.devRead; split <;> rfl
@[simp] theorem devRead_issuer : (s.devRead).2.issuer = s.issuer := by unfold State.devRead; split <;> rfl
@[simp] theorem devRead_payload : (s.devRead).2.payload = s.payload := by unfold State.devRead; split <;> rfl
@[simp] theorem devRead_sched : (s.devRead).2.sched = s.sched := by unfold State.devRead; split <;> rfl
@[simp] theorem devRead_responses : (s.devRead).2.responses = s.responses := by unfold State.devRead; split <;> rfl

/-! ## devWrite -/

@[simp] theorem devWrite_cap (b : Byte) : (s.devWrite b).2.cap = s.cap := by unfold State.devWrite; split <;> rfl
@[simp] theorem devWrite_storage (b : Byte) : (s.devWrite b).2.storage = s.storage := by unfold State.devWrite; split <;> rfl
@[simp] theorem devWrite_widx (b : Byte) : (s.devWrite b).2.widx = s.widx := by unfold State.devWrite; split <;> rfl
@[simp] theorem devWrite_ridx (b : Byte) : (s.devWrite b).2.ridx = s.ridx := by unfold State.devWrite; split <;> rfl
@[simp] theorem devWrite_wake (b : Byte) : (s.devWrite b).2.wake = s.wake := by unfold State.devWrite; split <;> rfl
@[simp] theorem devWrite_tmr (b : Byte) : (s.devWrite b).2.tmr = s.tmr := by unfold State.devWrite; split <;> rfl
@[simp] theorem devWrite_rxie (b : Byte) : (s.devWrite b).2.rxie = s.rxie := by unfold State.devWrite; split <;> rfl
@[simp] theorem devWrite_txie (b : Byte) : (s.devWrite b).2.txie = s.txie := by unfold State.devWrite; split <;> rfl
@[simp] theorem devWrite_ovrCnt (b : Byte) : (s.devWrite b).2.ovrCnt = s.ovrCnt := by unfold State.devWrite; split <;> rfl
@[simp] theorem devWrite_frmCnt (b : Byte) : (s.devWrite b).2.frmCnt = s.frmCnt := by unfold State.devWrite; split <;> rfl
@[simp] theorem devWrite_fault (b : Byte) : (s.devWrite b).2.fault = s.fault := by unfold State.devWrite; split <;> rfl
@[simp] theorem devWrite_run (b : Byte) : (s.devWrite b).2.run = s.run := by unfold State.devWrite; split <;> rfl
@[simp] theorem devWrite_snap (b : Byte) : (s.devWrite b).2.snap = s.snap := by unfold State.devWrite; split <;> rfl
@[simp] theorem devWrite_seq (b : Byte) : (s.devWrite b).2.seq = s.seq := by unfold State.devWrite; split <;> rfl
@[simp] theorem devWrite_mode (b : Byte) : (s.devWrite b).2.mode = s.mode := by unfold State.devWrite; split <;> rfl
@[simp] theorem devWrite_ports (b : Byte) : (s.devWrite b).2.ports = s.ports := by unfold State.devWrite; split <;> rfl
@[simp] theorem devWrite_issuer (b : Byte) : (s.devWrite b).2.issuer = s.issuer := by unfold State.devWrite; split <;> rfl
@[simp] theorem devWrite_payload (b : Byte) : (s.devWrite b).2.payload = s.payload := by unfold State.devWrite; split <;> rfl
@[simp] theorem devWrite_sched (b : Byte) : (s.devWrite b).2.sched = s.sched := by unfold State.devWrite; split <;> rfl
@[simp] theorem devWrite_responses (b : Byte) : (s.devWrite b).2.responses = s.responses := by unfold State.devWrite; split <;> rfl

/-! ## devErrors -/

@[simp] theorem devErrors_cap : (s.devErrors).2.cap = s.cap := by unfold State.devErrors; split <;> rfl
@[simp] theorem devErrors_storage : (s.devErrors).2.storage = s.storage := by unfold State.devErrors; split <;> rfl
@[simp] theorem devErrors_widx : (s.devErrors).2.widx = s.widx := by unfold State.devErrors; split <;> rfl
@[simp] theorem devErrors_ridx : (s.devErrors).2.ridx = s.ridx := by unfold State.devErrors; split <;> rfl
@[simp] theorem devErrors_wake : (s.devErrors).2.wake = s.wake := by unfold State.devErrors; split <;> rfl
@[simp] theorem devErrors_tmr : (s.devErrors).2.tmr = s.tmr := by unfold State.devErrors; split <;> rfl
@[simp] theorem devErrors_rxie : (s.devErrors).2.rxie = s.rxie := by unfold State.devErrors; split <;> rfl
@[simp] theorem devErrors_txie : (s.devErrors).2.txie = s.txie := by unfold State.devErrors; split <;> rfl
@[simp] theorem devErrors_ovrCnt : (s.devErrors).2.ovrCnt = s.ovrCnt := by unfold State.devErrors; split <;> rfl
@[simp] theorem devErrors_frmCnt : (s.devErrors).2.frmCnt = s.frmCnt := by unfold State.devErrors; split <;> rfl
@[simp] theorem devErrors_fault : (s.devErrors).2.fault = s.fault := by unfold State.devErrors; split <;> rfl
@[simp] theorem devErrors_run : (s.devErrors).2.run = s.run := by unfold State.devErrors; split <;> rfl
@[simp] theorem devErrors_snap : (s.devErrors).2.snap = s.snap := by unfold State.devErrors; split <;> rfl
@[simp] theorem devErrors_seq : (s.devErrors).2.seq = s.seq := by unfold State.devErrors; split <;> rfl
@[simp] theorem devErrors_mode : (s.devErrors).2.mode = s.mode := by unfold State.devErrors; split <;> rfl
@[simp] theorem devErrors_ports : (s.devErrors).2.ports = s.ports := by unfold State.devErrors; split <;> rfl
@[simp] theorem devErrors_issuer : (s.devErrors).2.issuer = s.issuer := by unfold State.devErrors; split <;> rfl
@[simp] theorem devErrors_payload : (s.devErrors).2.payload = s.payload := by unfold State.devErrors; split <;> rfl
@[simp] theorem devErrors_sched : (s.devErrors).2.sched = s.sched := by unfold State.devErrors; split <;> rfl
@[simp] theorem devErrors_responses : (s.devErrors).2.responses = s.responses := by unfold State.devErrors; split <;> rfl

/-! ## takeBytes -/

@[simp] theorem takeBytes_cap (len : Nat) : (s.takeBytes len).2.cap = s.cap := rfl
@[simp] theorem takeBytes_storage (len : Nat) : (s.takeBytes len).2.storage = s.storage := rfl
@[simp] theorem takeBytes_widx (len : Nat) : (s.takeBytes len).2.widx = s.widx := rfl
@[simp] theorem takeBytes_ridx (len : Nat) : (s.takeBytes len).2.ridx = s.ridx := rfl
@[simp] theorem takeBytes_wake (len : Nat) : (s.takeBytes len).2.wake = s.wake := rfl
@[simp] theorem takeBytes_tmr (len : Nat) : (s.takeBytes len).2.tmr = s.tmr := rfl
@[simp] theorem takeBytes_rxie (len : Nat) : (s.takeBytes len).2.rxie = s.rxie := rfl
@[simp] theorem takeBytes_txie (len : Nat) : (s.takeBytes len).2.txie = s.txie := rfl
@[simp] theorem takeBytes_ovrCnt (len : Nat) : (s.takeBytes len).2.ovrCnt = s.ovrCnt := rfl
@[simp] theorem takeBytes_frmCnt (len : Nat) : (s.takeBytes len).2.frmCnt = s.frmCnt := rfl
@[simp] theorem takeBytes_fault (len : Nat) : (s.takeBytes len).2.fault = s.fault := rfl
@[simp] theorem takeBytes_run (len : Nat) : (s.takeBytes len).2.run = s.run := rfl
@[simp] theorem takeBytes_snap (len : Nat) : (s.takeBytes len).2.snap = s.snap := rfl
@[simp] theorem takeBytes_seq (len : Nat) : (s.takeBytes len).2.seq = s.seq := rfl
@[simp] theorem takeBytes_mode (len : Nat) : (s.takeBytes len).2.mode = s.mode := rfl
@[simp] theorem takeBytes_ports (len : Nat) : (s.takeBytes len).2.ports = s.ports := rfl
@[simp] theorem takeBytes_issuer (len : Nat) : (s.takeBytes len).2.issuer = s.issuer := rfl
@[simp] theorem takeBytes_payload (len : Nat) : (s.takeBytes len).2.payload = s.payload := rfl
@[simp] theorem takeBytes_sched (len : Nat) : (s.takeBytes len).2.sched = s.sched := rfl
@[simp] theorem takeBytes_dev (len : Nat) : (s.takeBytes len).2.dev = s.dev := rfl
@[simp] theorem takeBytes_freeCtr (len : Nat) :
    (s.takeBytes len).2.freeCtr = s.freeCtr + callerFree len s.payload := rfl
@[simp] theorem takeBytes_trace (len : Nat) : (s.takeBytes len).2.trace = s.trace := rfl
@[simp] theorem takeBytes_responses (len : Nat) : (s.takeBytes len).2.responses = s.responses := rfl

end State

end Sys2Proof.Machine
end

