-- ==== Sys2Proof/Laws/Memory.lean ====
section
/-! SUPPORT. What the storage operations do: read after write, the canonical form, and where keys lie
(20_memory.md R60 to R64). -/

namespace Sys2Proof.Machine

namespace Memory

@[simp] theorem read_nil (a : Nat) : read [] a = none := rfl

theorem read_write_same (m : List Host.Cell) (a : Nat) (b : Byte) : read (write m a b) a = some b := by
  induction m with
  | nil => simp [write, read]
  | cons c m ih =>
    obtain ⟨k, x⟩ := c
    unfold write
    split
    · simp [read]
    · split
      · simp [read]
      · next h => simp [read, Ne.symm h, ih]

theorem read_write_other (m : List Host.Cell) (a i : Nat) (b : Byte) (h : i ≠ a) :
    read (write m a b) i = read m i := by
  induction m with
  | nil => simp [write, read, Ne.symm h]
  | cons c m ih =>
    obtain ⟨k, x⟩ := c
    unfold write
    split
    · simp [read, Ne.symm h]
    · split
      · next hk => subst hk; simp [read, Ne.symm h]
      · simp [read, ih]

/-- The addresses of a store are those before and the one stored to. -/
theorem mem_write (m : List Host.Cell) (a : Nat) (b : Byte) (c : Host.Cell) (h : c ∈ write m a b) :
    c.1 = a ∨ c ∈ m := by
  induction m with
  | nil => simp [write] at h; exact .inl (by rw [h])
  | cons d m ih =>
    obtain ⟨k, x⟩ := d
    unfold write at h
    split at h
    · rcases List.mem_cons.1 h with rfl | h
      · exact .inl rfl
      · exact .inr h
    · split at h
      · rcases List.mem_cons.1 h with rfl | h
        · exact .inl rfl
        · exact .inr (List.mem_cons_of_mem _ h)
      · rcases List.mem_cons.1 h with rfl | h
        · exact .inr (List.mem_cons_self ..)
        · exact (ih h).imp id (List.mem_cons_of_mem _)

theorem wf_nil : wf [] := List.Pairwise.nil

theorem wf_write (m : List Host.Cell) (a : Nat) (b : Byte) (h : wf m) : wf (write m a b) := by
  induction m with
  | nil => simp [write, wf]
  | cons d m ih =>
    obtain ⟨k, x⟩ := d
    have hd := List.pairwise_cons.1 h
    unfold write
    split
    · next hlt =>
      refine List.pairwise_cons.2 ⟨fun c hc => ?_, h⟩
      rcases List.mem_cons.1 hc with rfl | hc
      · exact hlt
      · exact Nat.lt_trans hlt (hd.1 c hc)
    · split
      · next hk => subst hk; exact List.pairwise_cons.2 hd
      · refine List.pairwise_cons.2 ⟨fun c hc => ?_, ih hd.2⟩
        rcases mem_write m a b c hc with hc | hc
        · show k < c.1; omega
        · exact hd.1 c hc

end Memory

/-- A stored byte reads back. -/
theorem memRead_memWrite_same (s : State) (ch : Chan) (i : Nat) (b : Byte) :
    (s.memWrite ch i b).memRead ch i = b := by
  simp [State.memRead, Memory.read_write_same]

/-- A store leaves every other slot of both channels alone. -/
theorem memRead_memWrite_other (s : State) (ch d : Chan) (i j : Nat) (b : Byte) (h : (d, j) ≠ (ch, i)) :
    (s.memWrite ch i b).memRead d j = s.memRead d j := by
  unfold State.memRead
  rw [State.memWrite_storage, PerChan.get_set]
  split
  · next hd =>
    subst hd
    rw [Memory.read_write_other _ _ _ _ (fun hj => h (by rw [hj]))]
  · rfl

/-- A read depends on the storage of its channel only. -/
theorem memRead_congr (s t : State) (ch : Chan) (i : Nat) (h : t.storage.get ch = s.storage.get ch) :
    t.memRead ch i = s.memRead ch i := by
  simp [State.memRead, h]

/-- Both storage arrays stay in canonical form under a store. -/
theorem wf_memWrite (s : State) (ch d : Chan) (i : Nat) (b : Byte) (h : Memory.wf (s.storage.get d)) :
    Memory.wf ((s.memWrite ch i b).storage.get d) := by
  rw [State.memWrite_storage, PerChan.get_set]
  split
  · next hd => subst hd; exact Memory.wf_write _ _ _ h
  · exact h

theorem wf_reset (ch : Chan) : Memory.wf (State.reset.storage.get ch) := by
  cases ch <;> exact Memory.wf_nil

/-- A construction leaves the canonical form. -/
theorem wf_constructChan (s : State) (ch d : Chan) (capv : Index) (h : Memory.wf (s.storage.get d)) :
    Memory.wf ((s.constructChan ch capv).storage.get d) := by
  cases ch <;> cases d <;> first | exact Memory.wf_nil | exact h

/-- Power-on reset leaves it. -/
theorem wf_powerOnReset (s : State) (ch : Chan) : Memory.wf (s.powerOnReset.storage.get ch) := wf_reset ch

/-! ## Index arithmetic -/

/-- A slot lies inside the array (20_memory.md R60). -/
theorem slotOf_lt (i cap : Index) (h : cap ≠ 0) : slotOf i cap < cap.toNat := by
  have h1 : (i &&& maskOf cap).toNat ≤ (maskOf cap).toNat := by
    rw [BitVec.toNat_and]; exact Nat.and_le_right
  have h2 : (maskOf cap).toNat = cap.toNat - 1 := by
    unfold maskOf
    have : cap.toNat ≠ 0 := fun h0 => h (BitVec.eq_of_toNat_eq (by simpa using h0))
    bv_omega
  have h3 : cap.toNat ≠ 0 := fun h0 => h (BitVec.eq_of_toNat_eq (by simpa using h0))
  unfold slotOf
  omega

theorem usedOf_inc16_left (w r : Index) : usedOf (inc16 w) r = usedOf w r + 1 := by
  unfold usedOf inc16; bv_omega

theorem usedOf_inc16_right (w r : Index) : usedOf w (inc16 r) = usedOf w r - 1 := by
  unfold usedOf inc16; bv_omega

end Sys2Proof.Machine
end

