-- ==== Sys2Proof/Laws/Ops.lean ====
section
/-! SUPPORT. Once for each shared operation, everything it can do: accepting and completing a command, the
parts of a composite, the wake signal, the timer, the calls the device answers, the response word. -/

namespace Sys2Proof.Machine

/-! ## Accepting and performing (30_encoding.md R96) -/

/-- Everything a port does with an operation. -/
theorem accept_cases (i : Instr) (s : State) (go o : Host.Outcome State Fault Refusal)
    (h : accept i s go = o) :
    (accepts s.issuer i = false ∧ o = .next (s.respond s.issuer Reply.illegal)) ∨
    (accepts s.issuer i = true ∧ s.run.get s.issuer = .halted ∧
      o = .next (s.respond s.issuer s.haltedReply)) ∨
    (accepts s.issuer i = true ∧ s.run.get s.issuer ≠ .halted ∧ needsConstruct i s = true ∧
      o = .next (s.respond s.issuer (Reply.rejected 4))) ∨
    (ready i s ∧ o = go) ∨
    (accepts s.issuer i = true ∧ s.run.get s.issuer ≠ .idle ∧ s.run.get s.issuer ≠ .halted ∧
      needsConstruct i s = false ∧ o = .refused .portInUse) := by
  unfold accept at h
  split at h
  · next ha => exact .inl ⟨ha, h.symm⟩
  · next ha =>
    have ha : accepts s.issuer i = true := by simpa using ha
    split at h
    · next hr => exact .inr (.inl ⟨ha, hr, h.symm⟩)
    · next hr =>
      split at h
      · next hn => exact .inr (.inr (.inl ⟨ha, hr, hn, h.symm⟩))
      · next hn =>
        have hn : needsConstruct i s = false := by simpa using hn
        split at h
        · next hi => exact .inr (.inr (.inr (.inl ⟨⟨ha, hi, hn⟩, h.symm⟩)))
        · next hi => exact .inr (.inr (.inr (.inr ⟨ha, hi, hr, hn, h.symm⟩)))

theorem accept_of_ready (i : Instr) (s : State) (go : Host.Outcome State Fault Refusal) (h : ready i s) :
    accept i s go = go := by
  obtain ⟨ha, hr, hn⟩ := h
  simp [accept, ha, hr, hn]

/-- An operation that is ready runs by its rule and is completed. -/
theorem perform_of_ready (i : Instr) (op : Agent → State → Result) (s : State) (h : ready i s) :
    perform i op s = complete s.issuer (op s.issuer s) := accept_of_ready i s _ h

/-- Everything the completion of an operation can be. -/
theorem complete_next (a : Agent) (x : Result) (t : State) (h : complete a x = .next t) :
    (∃ s r, x = .reply s r ∧ t = s.respond a r) ∨
    (∃ s r, x = .violated s r ∧ t = s.respond a r) ∨
    (∃ s st p cs, x = .inProgress s st p cs ∧ t = (s.setSeq a (some ⟨p, cs⟩)).setRun a st) := by
  cases x with
  | reply s r => exact .inl ⟨s, r, rfl, by simpa [complete] using h.symm⟩
  | violated s r => exact .inr (.inl ⟨s, r, rfl, by simpa [complete] using h.symm⟩)
  | inProgress s st p cs => exact .inr (.inr ⟨s, st, p, cs, rfl, by simpa [complete] using h.symm⟩)
  | stuck f => simp [complete] at h

@[simp] theorem andThen_reply (s : State) (r : Reply) (f : State → Reply → Result) :
    (Result.reply s r).andThen f = f s r := rfl

@[simp] theorem andThen_violated (s : State) (r : Reply) (f : State → Reply → Result) :
    (Result.violated s r).andThen f = .violated s r := rfl

@[simp] theorem complete_reply (a : Agent) (s : State) (r : Reply) :
    complete a (.reply s r) = .next (s.respond a r) := rfl

@[simp] theorem complete_violated (a : Agent) (s : State) (r : Reply) :
    complete a (.violated s r) = .next (s.respond a r) := rfl

/-! ## Ring primitives as parts -/

theorem pushOp_of_room (ch : Chan) (b : Byte) (a : Agent) (s : State) (h : isFullNow s ch = false) :
    pushOp ch b a s =
      .reply ((s.memWrite ch (slotOf (s.widx.get ch) (s.cap.get ch)) b).setWidx ch (inc16 (s.widx.get ch)))
        Reply.ok0 := by
  simp only [isFullNow] at h
  simp [pushOp, h]

theorem pushOp_of_full (ch : Chan) (b : Byte) (a : Agent) (s : State) (h : isFullNow s ch = true) :
    pushOp ch b a s = violate a .pushFull ch s := by
  simp only [isFullNow] at h
  simp [pushOp, h]

theorem popOp_of_data (ch : Chan) (a : Agent) (s : State) (h : isEmptyNow s ch = false) :
    popOp ch a s =
      .reply (s.setRidx ch (inc16 (s.ridx.get ch)))
        (Reply.okVal ((s.memRead ch (slotOf (s.ridx.get ch) (s.cap.get ch))).setWidth 16)) := by
  simp only [isEmptyNow] at h
  simp [popOp, h]

theorem popOp_of_empty (ch : Chan) (a : Agent) (s : State) (h : isEmptyNow s ch = true) :
    popOp ch a s = violate a .popEmpty ch s := by
  simp only [isEmptyNow] at h
  simp [popOp, h]

theorem peekOp_of_data (ch : Chan) (a : Agent) (s : State) (h : isEmptyNow s ch = false) :
    peekOp ch a s =
      .reply s (Reply.okVal ((s.memRead ch (slotOf (s.ridx.get ch) (s.cap.get ch))).setWidth 16)) := by
  simp only [isEmptyNow] at h
  simp [peekOp, h]

theorem peekOp_of_empty (ch : Chan) (a : Agent) (s : State) (h : isEmptyNow s ch = true) :
    peekOp ch a s = violate a .peekEmpty ch s := by
  simp only [isEmptyNow] at h
  simp [peekOp, h]

/-- What the loops read in a query's answer. -/
theorem queryReply_full_value (w r cap : Index) : (queryReply .full w r cap).value = 1 ↔ fullAt w r cap = true := by
  cases h : fullAt w r cap <;> simp [queryReply, Reply.okBool, Reply.okVal, h]

theorem queryReply_empty_value (w r cap : Index) :
    (queryReply .empty w r cap).value = 1 ↔ emptyAt w r = true := by
  cases h : emptyAt w r <;> simp [queryReply, Reply.okBool, Reply.okVal, h]

theorem fullAt_iff (w r cap : Index) : fullAt w r cap = true ↔ cap.toNat ≤ (w - r).toNat := by
  unfold fullAt usedOf
  exact decide_eq_true_iff

theorem emptyAt_iff (w r : Index) : emptyAt w r = true ↔ w = r := by
  simp only [emptyAt, usedOf, beq_iff_eq]
  constructor <;> intro h <;> bv_omega

/-! ## Wake signal and timer (44_wake_timer_lifecycle.md R241 to R247) -/

theorem raiseWake_cases (s : State) (ch : Chan) :
    (s.wake.get ch = .idle ∧ s.raiseWake ch = s.setWake ch .raised) ∨
    (s.wake.get ch = .raised ∧ s.raiseWake ch = s) ∨
    (s.wake.get ch = .parked ∧ s.raiseWake ch = (s.setWake ch .idle).setRun (threadOf ch) .busy) := by
  unfold State.raiseWake
  cases h : s.wake.get ch <;> simp

theorem armTimer_cases (s : State) :
    (s.tmr = .armed ∧ s.armTimer = s) ∨
    (s.tmr = .idle ∧ s.armTimer = { s with tmr := .armed, trace := .startOneShot Config.timerMs :: s.trace }) := by
  unfold State.armTimer
  cases h : s.tmr <;> simp

theorem stopTimer_cases (s : State) :
    (s.tmr = .idle ∧ s.stopTimer = s) ∨
    (s.tmr = .armed ∧ s.stopTimer = { s with tmr := .idle, trace := .stop :: s.trace }) := by
  unfold State.stopTimer
  cases h : s.tmr <;> simp

@[simp] theorem armTimer_tmr (s : State) : s.armTimer.tmr = .armed := by
  rcases armTimer_cases s with ⟨h, h'⟩ | ⟨_, h'⟩ <;> rw [h']
  exact h

@[simp] theorem stopTimer_tmr (s : State) : s.stopTimer.tmr = .idle := by
  rcases stopTimer_cases s with ⟨h, h'⟩ | ⟨_, h'⟩ <;> rw [h']
  exact h

/-- A raise never leaves a signal parked and only ever makes a parked thread busy. -/
theorem raiseWake_run (s : State) (ch : Chan) (a : Agent) :
    (s.raiseWake ch).run.get a = s.run.get a ∨
    (a = threadOf ch ∧ s.wake.get ch = .parked ∧ (s.raiseWake ch).run.get a = .busy) := by
  rcases raiseWake_cases s ch with ⟨_, h⟩ | ⟨_, h⟩ | ⟨hp, h⟩ <;> rw [h]
  · exact .inl rfl
  · exact .inl rfl
  · by_cases ha : a = threadOf ch
    · exact .inr ⟨ha, hp, by simp [ha]⟩
    · exact .inl (by simp [ha])

/-! ## Calls the device answers (60_exceptions.md R298) -/

/-- A call with a queued answer takes it and nothing else. -/
theorem devPoll_cons (s : State) (p : Bool) (ps : List Bool) (h : s.dev.poll = p :: ps) :
    s.devPoll =
      (p, { s with dev := { s.dev with poll := ps }, trace := .pollPendingInterrupt p :: s.trace }) := by
  simp [State.devPoll, h]

theorem devRxReady_cons (s : State) (p : Bool) (ps : List Bool) (h : s.dev.rxReady = p :: ps) :
    s.devRxReady = (p, { s with dev := { s.dev with rxReady := ps }, trace := .rxReady p :: s.trace }) := by
  simp [State.devRxReady, h]

theorem devTxReady_cons (s : State) (p : Bool) (ps : List Bool) (h : s.dev.txReady = p :: ps) :
    s.devTxReady = (p, { s with dev := { s.dev with txReady := ps }, trace := .txReady p :: s.trace }) := by
  simp [State.devTxReady, h]

theorem devRead_cons (s : State) (x : Option Byte) (xs : List (Option Byte)) (h : s.dev.rx = x :: xs) :
    s.devRead = (x, { s with dev := { s.dev with rx := xs }, trace := .readByteNonBlocking x :: s.trace }) := by
  simp [State.devRead, h]

theorem devWrite_cons (s : State) (b : Byte) (p : Bool) (ps : List Bool) (h : s.dev.tx = p :: ps) :
    s.devWrite b =
      (p, { s with dev := { s.dev with tx := ps }, trace := .writeByteNonBlocking b p :: s.trace }) := by
  simp [State.devWrite, h]

theorem devErrors_cons (s : State) (e : ErrorFlags) (es : List ErrorFlags) (h : s.dev.err = e :: es) :
    s.devErrors = (e, { s with dev := { s.dev with err := es }, trace := .checkAndClearErrors e :: s.trace }) := by
  simp [State.devErrors, h]

/-! ## The caller's bytes and the response word (30_encoding.md R93, R97) -/

@[simp] theorem callerBytes_length (free len : Nat) (stream : List Byte) :
    (callerBytes free len stream).length = len := by
  induction len generalizing free stream with
  | zero => rfl
  | succ n ih => cases stream <;> simp [callerBytes, ih]

/-- A stream that holds enough bytes is taken as it is. -/
theorem callerBytes_of_enough (free len : Nat) (stream : List Byte) (h : len ≤ stream.length) :
    callerBytes free len stream = stream.take len := by
  induction len generalizing stream with
  | zero => rfl
  | succ n ih =>
    cases stream with
    | nil => simp at h
    | cons b bs => simp [callerBytes, ih bs (by simpa using h)]

/-- The word of an `OK` response is its value. -/
theorem okVal_word (v : Index) : (Reply.okVal v).word = v.setWidth 32 := by
  have h : (Reply.okVal v).word = (0 : BitVec 16) ++ v := by simp [Reply.word, Reply.okVal, Status.number]
  rw [h]
  apply BitVec.eq_of_toNat_eq
  rw [BitVec.toNat_append, BitVec.toNat_setWidth, Nat.mod_eq_of_lt (by omega)]
  simp

@[simp] theorem ok0_word : Reply.ok0.word = 0 := by decide

@[simp] theorem wouldBlock_word : Reply.wouldBlock.word = 0x10000000 := by decide

@[simp] theorem illegal_word : Reply.illegal.word = 0x40000000 := by decide

end Sys2Proof.Machine
end

