-- ==== Sys2Proof/Laws/PerInstr.lean ====
section
/-! SUPPORT. Per-operation facts about the syntax: the fields of every operation's command word
(30_encoding.md R91 to R93), and that every operation has a port (R95). -/

namespace Sys2Proof.Laws

/-! ## Fields of a command word -/

theorem commandWord_bit (opc : BitVec 8) (ch : Chan) (arg : BitVec 16) (i : Nat) :
    (commandWord opc ch arg).getLsbD i =
      if i < 16 then arg.getLsbD i
      else if i - 16 < 1 then (bitOfChan ch).getLsbD (i - 16)
      else if i - 16 - 1 < 7 then false
      else opc.getLsbD (i - 16 - 1 - 7) := by
  change BitVec.getLsbD (w := 8 + 7 + 1 + 16) (opc ++ (0 : BitVec 7) ++ bitOfChan ch ++ arg) i = _
  rw [BitVec.getLsbD_append, BitVec.getLsbD_append, BitVec.getLsbD_append]
  simp

theorem opcField_commandWord (opc : BitVec 8) (ch : Chan) (arg : BitVec 16) :
    opcField (commandWord opc ch arg) = opc := by
  apply BitVec.eq_of_getLsbD_eq
  intro i hi
  rw [opcField, BitVec.getLsbD_extractLsb', commandWord_bit, if_neg (by omega), if_neg (by omega),
    if_neg (by omega), show 24 + i - 16 - 1 - 7 = i by omega]
  simp [hi]

theorem z1Field_commandWord (opc : BitVec 8) (ch : Chan) (arg : BitVec 16) :
    z1Field (commandWord opc ch arg) = 0 := by
  apply BitVec.eq_of_getLsbD_eq
  intro i hi
  rw [z1Field, BitVec.getLsbD_extractLsb', commandWord_bit, if_neg (by omega), if_neg (by omega),
    if_pos (by omega)]
  simp

theorem chField_commandWord (opc : BitVec 8) (ch : Chan) (arg : BitVec 16) :
    chField (commandWord opc ch arg) = bitOfChan ch := by
  apply BitVec.eq_of_getLsbD_eq
  intro i hi
  rw [chField, BitVec.getLsbD_extractLsb', commandWord_bit, if_neg (by omega), if_pos (by omega),
    show 16 + i - 16 = i by omega]
  simp only [hi, decide_true, Bool.true_and]

theorem argField_commandWord (opc : BitVec 8) (ch : Chan) (arg : BitVec 16) :
    argField (commandWord opc ch arg) = arg := by
  apply BitVec.eq_of_getLsbD_eq
  intro i hi
  rw [argField, BitVec.getLsbD_extractLsb', commandWord_bit, if_pos (by omega)]
  simp [hi]

theorem argHighField_eq (w : Word) : argHighField w = (argField w).extractLsb' 8 8 := by
  unfold argHighField argField
  apply BitVec.eq_of_getLsbD_eq
  intro i hi
  simp [hi]

theorem byteField_eq (w : Word) : byteField w = (argField w).setWidth 8 := by
  unfold byteField argField
  apply BitVec.eq_of_getLsbD_eq
  intro i hi
  have h : i < 16 := by omega
  simp [hi, h]

theorem chanOfBit_bitOfChan (ch : Chan) : chanOfBit (bitOfChan ch) = ch := by
  cases ch <;> rfl

/-! ## Every command word has `Z1` zero, the `OPC` of its row and the channel of its operand -/

namespace EncodedFields

/-- The `OPC` of each row (30_encoding.md R93). -/
def opcodeOf : Instr → BitVec 8
  | .push _ _ => 0x00
  | .pop _ => 0x01
  | .peek _ => 0x02
  | .used _ => 0x03
  | .isFull _ => 0x04
  | .isEmpty _ => 0x05
  | .cap _ => 0x06
  | .snap _ => 0x10
  | .fcTxt => 0x11
  | .fcTxi => 0x12
  | .fcRxt => 0x13
  | .fcRxi => 0x14
  | .isr => 0x20
  | .errChk => 0x21
  | .rxBurst => 0x22
  | .txBurst => 0x23
  | .wrnb _ => 0x30
  | .write _ => 0x31
  | .rdnb _ => 0x32
  | .read _ => 0x33
  | .raise _ => 0x40
  | .wait _ => 0x41
  | .wreset _ => 0x42
  | .tarm => 0x50
  | .tstop => 0x51
  | .tfire => 0x52
  | .construct _ _ => 0x60
  | .setup => 0x61

def Statement (i : Instr) : Prop := opcField (encode i) = opcodeOf i ∧ z1Field (encode i) = 0

theorem push (ch : Chan) (b : Byte) : Statement (.push ch b) := ⟨opcField_commandWord .., z1Field_commandWord ..⟩
theorem pop (ch : Chan) : Statement (.pop ch) := ⟨opcField_commandWord .., z1Field_commandWord ..⟩
theorem peek (ch : Chan) : Statement (.peek ch) := ⟨opcField_commandWord .., z1Field_commandWord ..⟩
theorem used (ch : Chan) : Statement (.used ch) := ⟨opcField_commandWord .., z1Field_commandWord ..⟩
theorem isFull (ch : Chan) : Statement (.isFull ch) := ⟨opcField_commandWord .., z1Field_commandWord ..⟩
theorem isEmpty (ch : Chan) : Statement (.isEmpty ch) := ⟨opcField_commandWord .., z1Field_commandWord ..⟩
theorem cap (ch : Chan) : Statement (.cap ch) := ⟨opcField_commandWord .., z1Field_commandWord ..⟩
theorem snap (ch : Chan) : Statement (.snap ch) := ⟨opcField_commandWord .., z1Field_commandWord ..⟩
theorem fcTxt : Statement .fcTxt := ⟨opcField_commandWord .., z1Field_commandWord ..⟩
theorem fcTxi : Statement .fcTxi := ⟨opcField_commandWord .., z1Field_commandWord ..⟩
theorem fcRxt : Statement .fcRxt := ⟨opcField_commandWord .., z1Field_commandWord ..⟩
theorem fcRxi : Statement .fcRxi := ⟨opcField_commandWord .., z1Field_commandWord ..⟩
theorem isr : Statement .isr := ⟨opcField_commandWord .., z1Field_commandWord ..⟩
theorem errChk : Statement .errChk := ⟨opcField_commandWord .., z1Field_commandWord ..⟩
theorem rxBurst : Statement .rxBurst := ⟨opcField_commandWord .., z1Field_commandWord ..⟩
theorem txBurst : Statement .txBurst := ⟨opcField_commandWord .., z1Field_commandWord ..⟩
theorem wrnb (len : Nat) : Statement (.wrnb len) := ⟨opcField_commandWord .., z1Field_commandWord ..⟩
theorem write (len : Nat) : Statement (.write len) := ⟨opcField_commandWord .., z1Field_commandWord ..⟩
theorem rdnb (len : Nat) : Statement (.rdnb len) := ⟨opcField_commandWord .., z1Field_commandWord ..⟩
theorem read (len : Nat) : Statement (.read len) := ⟨opcField_commandWord .., z1Field_commandWord ..⟩
theorem raise (ch : Chan) : Statement (.raise ch) := ⟨opcField_commandWord .., z1Field_commandWord ..⟩
theorem wait (ch : Chan) : Statement (.wait ch) := ⟨opcField_commandWord .., z1Field_commandWord ..⟩
theorem wreset (ch : Chan) : Statement (.wreset ch) := ⟨opcField_commandWord .., z1Field_commandWord ..⟩
theorem tarm : Statement .tarm := ⟨opcField_commandWord .., z1Field_commandWord ..⟩
theorem tstop : Statement .tstop := ⟨opcField_commandWord .., z1Field_commandWord ..⟩
theorem tfire : Statement .tfire := ⟨opcField_commandWord .., z1Field_commandWord ..⟩
theorem construct (ch : Chan) (capv : Index) : Statement (.construct ch capv) := ⟨opcField_commandWord .., z1Field_commandWord ..⟩
theorem setup : Statement .setup := ⟨opcField_commandWord .., z1Field_commandWord ..⟩

end EncodedFields

/-! ## Every operation is accepted at some port -/

namespace PortExists

def Statement (i : Instr) : Prop := accepts (acceptingPort i) i = true

theorem push (ch : Chan) (b : Byte) : Statement (.push ch b) := by cases ch <;> rfl
theorem pop (ch : Chan) : Statement (.pop ch) := by cases ch <;> rfl
theorem peek (ch : Chan) : Statement (.peek ch) := by cases ch <;> rfl
theorem used (ch : Chan) : Statement (.used ch) := by cases ch <;> rfl
theorem isFull (ch : Chan) : Statement (.isFull ch) := by cases ch <;> rfl
theorem isEmpty (ch : Chan) : Statement (.isEmpty ch) := by cases ch <;> rfl
theorem cap (ch : Chan) : Statement (.cap ch) := by cases ch <;> rfl
theorem snap (ch : Chan) : Statement (.snap ch) := by cases ch <;> rfl
theorem fcTxt : Statement .fcTxt := rfl
theorem fcTxi : Statement .fcTxi := rfl
theorem fcRxt : Statement .fcRxt := rfl
theorem fcRxi : Statement .fcRxi := rfl
theorem isr : Statement .isr := rfl
theorem errChk : Statement .errChk := rfl
theorem rxBurst : Statement .rxBurst := rfl
theorem txBurst : Statement .txBurst := rfl
theorem wrnb (len : Nat) : Statement (.wrnb len) := rfl
theorem write (len : Nat) : Statement (.write len) := rfl
theorem rdnb (len : Nat) : Statement (.rdnb len) := rfl
theorem read (len : Nat) : Statement (.read len) := rfl
theorem raise (ch : Chan) : Statement (.raise ch) := by cases ch <;> rfl
theorem wait (ch : Chan) : Statement (.wait ch) := by cases ch <;> rfl
theorem wreset (ch : Chan) : Statement (.wreset ch) := by cases ch <;> rfl
theorem tarm : Statement .tarm := rfl
theorem tstop : Statement .tstop := rfl
theorem tfire : Statement .tfire := rfl
theorem construct (ch : Chan) (capv : Index) : Statement (.construct ch capv) := by cases ch <;> rfl
theorem setup : Statement .setup := rfl

end PortExists

end Sys2Proof.Laws
end

