-- ==== Sys2Proof/Tests/Slice0.lean ====
section
/-! SUPPORT. Tests: expected values are those of spec/95_test_vectors.md and the worked examples of the rules,
named at each test. Then one witness for each statement with hypotheses: a concrete state and operands that
meet all of them together, for each clause. -/

namespace Sys2Proof.Tests

open Sys2Proof Sys2Proof.Machine

/-! ## Helpers -/

/-- Both channels constructed with capacity 16, rings empty, the command at the port of `a`. -/
def at16 (a : Agent) : State := { State.reset with cap := ⟨16, 16⟩, issuer := a }

/-- The same with the RX counters set. -/
def rx16 (a : Agent) (w r : Index) : State := { at16 a with widx := ⟨w, 0⟩, ridx := ⟨r, 0⟩ }

/-- The same with the TX counters set. -/
def tx16 (a : Agent) (w r : Index) : State := { at16 a with widx := ⟨0, w⟩, ridx := ⟨0, r⟩ }

/-- Cells 0, 1, 2, ... holding `b`, `b + 1`, `b + 2`, ... -/
def cellsFrom (b : Byte) (n : Nat) : List Host.Cell := (List.range n).map fun i => (i, b + BitVec.ofNat 8 i)

/-- The outcome is a next state with this property. -/
def nextIs (o : Host.Outcome State Fault Refusal) (p : State → Bool) : Bool :=
  match o with
  | .next t => p t
  | .fault _ => false
  | .refused _ => false

/-- The outcome is a next state, whatever it is. -/
def completes (o : Host.Outcome State Fault Refusal) : Bool := nextIs o fun _ => true

def stopsWith (o : Host.Outcome State Fault Refusal) (f : Fault) : Bool :=
  match o with
  | .next _ => false
  | .fault g => g == f
  | .refused _ => false

/-- The newest response word. -/
def lastWord (t : State) : Option Word := t.responses.head?.map fun r => r.word

/-- The operation answers this word. -/
def answers (o : Host.Outcome State Fault Refusal) (w : Word) : Bool := nextIs o fun t => lastWord t == some w

def decodesTo (w : Word) (i : Instr) : Bool :=
  match decode w with
  | .ok j => j == i
  | .error _ => false

def rejectedAs (w : Word) (e : DecodeError) : Bool :=
  match decode w with
  | .ok _ => false
  | .error d => d == e

theorem completes_next (o : Host.Outcome State Fault Refusal) (h : completes o = true) : ∃ t, o = .next t := by
  cases o with
  | next t => exact ⟨t, rfl⟩
  | fault f => simp [completes, nextIs] at h
  | refused r => simp [completes, nextIs] at h

theorem ne_powerOn (s : State) (h : s.sched.head? ≠ some .powerOn) : ∀ ts, s.sched ≠ .powerOn :: ts :=
  fun ts hs => h (by rw [hs]; rfl)

/-! ## WellFormed: an ill-formed term for each check -/

theorem test_wellFormed_refuses_long :
    (Instr.wrnb 65536).wellFormed = false ∧ (Instr.write 65536).wellFormed = false ∧
    (Instr.rdnb 65536).wellFormed = false ∧ (Instr.read 65536).wellFormed = false := by decide

theorem test_wellFormed_accepts_longest :
    (Instr.wrnb 65535).wellFormed = true ∧ (Instr.write 65535).wellFormed = true ∧
    (Instr.rdnb 65535).wellFormed = true ∧ (Instr.read 65535).wellFormed = true := by decide

/-! ## Decoding: words written from the fields OPC, Z1, CH, ARG (30_encoding.md R91 to R93) -/

theorem test_decode_ring :
    decodesTo 0b00000000_0000000_1_00000000_01000001 (.push .tx 0x41) ∧
    decodesTo 0b00000000_0000000_0_00000000_11111111 (.push .rx 0xFF) ∧
    decodesTo 0b00000001_0000000_0_0000000000000000 (.pop .rx) ∧
    decodesTo 0b00000010_0000000_1_0000000000000000 (.peek .tx) ∧
    decodesTo 0b00000011_0000000_1_0000000000000000 (.used .tx) ∧
    decodesTo 0b00000100_0000000_0_0000000000000000 (.isFull .rx) ∧
    decodesTo 0b00000101_0000000_1_0000000000000000 (.isEmpty .tx) ∧
    decodesTo 0b00000110_0000000_0_0000000000000000 (.cap .rx) := by decide

theorem test_decode_flow :
    decodesTo 0b00010000_0000000_0_0000000000000000 (.snap .rx) ∧
    decodesTo 0b00010001_0000000_1_0000000000000000 .fcTxt ∧
    decodesTo 0b00010010_0000000_1_0000000000000000 .fcTxi ∧
    decodesTo 0b00010011_0000000_0_0000000000000000 .fcRxt ∧
    decodesTo 0b00010100_0000000_0_0000000000000000 .fcRxi := by decide

theorem test_decode_handler :
    decodesTo 0b00100000_0000000_0_0000000000000000 .isr ∧
    decodesTo 0b00100001_0000000_0_0000000000000000 .errChk ∧
    decodesTo 0b00100010_0000000_0_0000000000000000 .rxBurst ∧
    decodesTo 0b00100011_0000000_1_0000000000000000 .txBurst := by decide

theorem test_decode_api :
    decodesTo 0b00110000_0000000_1_0000000000000101 (.wrnb 5) ∧
    decodesTo 0b00110001_0000000_1_1000000000000001 (.write 32769) ∧
    decodesTo 0b00110010_0000000_0_0000000100000000 (.rdnb 256) ∧
    decodesTo 0b00110011_0000000_0_0000000001100100 (.read 100) := by decide

theorem test_decode_lifecycle :
    decodesTo 0b01000000_0000000_1_0000000000000000 (.raise .tx) ∧
    decodesTo 0b01000001_0000000_0_0000000000000000 (.wait .rx) ∧
    decodesTo 0b01000010_0000000_1_0000000000000000 (.wreset .tx) ∧
    decodesTo 0b01010000_0000000_0_0000000000000000 .tarm ∧
    decodesTo 0b01010001_0000000_0_0000000000000000 .tstop ∧
    decodesTo 0b01010010_0000000_0_0000000000000000 .tfire ∧
    decodesTo 0b01100000_0000000_1_0100000000000000 (.construct .tx 16384) ∧
    decodesTo 0b01100001_0000000_0_0000000000000000 .setup := by decide

/-- 95_test_vectors.md 2.7 and the reserved opcodes of 30_encoding.md R96. -/
theorem test_decode_rejects_by_name :
    rejectedAs 0x07010000 .reservedOpcode ∧ rejectedAs 0x15000000 .reservedOpcode ∧
    rejectedAs 0xFF000000 .reservedOpcode ∧ rejectedAs 0x00030041 .mustBeZeroSet ∧
    rejectedAs 0x01010001 .argNotZero ∧ rejectedAs 0x00010141 .argNotZero ∧
    rejectedAs 0x11000000 .wrongChannel ∧ rejectedAs 0x30000004 .wrongChannel := by decide

/-- 95_test_vectors.md 2.7: operations at a port that does not accept them. -/
theorem test_ports_refuse :
    accepts .txt (.pop .tx) = false ∧ accepts .rxt (.push .rx 0x41) = false ∧ accepts .isr .fcTxt = false ∧
    accepts .txt (.wait .rx) = false ∧ accepts .tmr (.raise .rx) = false ∧
    accepts .rxt (.construct .rx 16) = false := by decide

/-! ## Index arithmetic and decision functions (95_test_vectors.md 2.1, 2.3) -/

theorem test_index_table :
    [usedOf 0x0000 0x0000, usedOf 0x0010 0x0000, usedOf 0x0018 0x0008, usedOf 0x0005 0xFFFE,
      usedOf 0x0000 0xFFF0, usedOf 0xFFFF 0xFFFF, usedOf 0x4000 0x0000, usedOf 0x7FFF 0x4000] =
      [0, 16, 16, 7, 16, 0, 16384, 16383] ∧
    [slotOf 0x0010 16, slotOf 0x0018 16, slotOf 0x0005 16, slotOf 0xFFFF 16, slotOf 0x4000 16384,
      slotOf 0x7FFF 16384] = [0, 8, 5, 15, 0, 0x3FFF] := by decide

theorem test_txThreadEnable_table :
    [txThreadEnable 0 0 0 0, txThreadEnable 0 0 5 0, txThreadEnable 5 0 9 0, txThreadEnable 5 0 9 3,
      txThreadEnable 0x10 0 0x10 4, txThreadEnable 0x10 0 0x10 0, txThreadEnable 5 0 5 5,
      txThreadEnable 1 0 2 1, txThreadEnable 0xFFFF 0xFFFF 3 0xFFFF] =
      [false, true, false, true, true, false, false, true, true] := by decide

theorem test_rxThreadEnable_table :
    [rxThreadEnable 0x10 0 0x10 8 16, rxThreadEnable 0x10 0 0x10 0 16, rxThreadEnable 0xA 0 0xA 4 16,
      rxThreadEnable 0xA 0 0xC 4 16, rxThreadEnable 0x10 0 0x18 8 16, rxThreadEnable 3 0 4 1 16,
      rxThreadEnable 0 0 0 0 16, rxThreadEnable 0xFFF8 0xFFE8 0xFFF8 0xFFF0 16] =
      [true, false, false, true, false, true, false, true] := by decide

/-! ## Ring primitives -/

/-- V1: the second push, across the counter wrap. -/
theorem test_push_wraps :
    nextIs (exec (.push .tx 0xBB) (tx16 .txt 0xFFFF 0xFFF0)) fun t =>
      lastWord t == some 0 && t.memRead .tx 15 == 0xBB && t.widx.tx == 0x0000 := by decide

/-- V2. -/
theorem test_push_full :
    nextIs (exec (.push .tx 0x99) (tx16 .txt 0x0010 0x0000)) fun t =>
      lastWord t == some 0x20000001 && t.storage.tx == [] && t.widx.tx == 0x0010 &&
      t.fault == some ⟨.pushFull, .tx, .txt⟩ && t.run.txt == .halted := by decide

/-- V4: capacity 2, the pop of slot 0 after it was written again. -/
theorem test_pop_second_round :
    nextIs (exec (.pop .tx)
      { tx16 .isr 3 2 with cap := ⟨2, 2⟩, storage := ⟨[], [(0, 0x03), (1, 0x02)]⟩ }) fun t =>
      lastWord t == some 0x00000003 && t.ridx.tx == 3 := by decide

/-- V3. -/
theorem test_pop_empty :
    nextIs (exec (.pop .rx) (rx16 .rxt 0x0007 0x0007)) fun t =>
      lastWord t == some 0x20000002 && t.fault == some ⟨.popEmpty, .rx, .rxt⟩ && t.ridx.rx == 0x0007 := by decide

/-- V6. -/
theorem test_peek :
    nextIs (exec (.peek .tx) { tx16 .isr 6 4 with storage := ⟨[], [(4, 0x5A)]⟩ }) fun t =>
      lastWord t == some 0x0000005A && t.ridx.tx == 4 := by decide

/-- V3. -/
theorem test_peek_empty :
    nextIs (exec (.peek .rx) (rx16 .rxt 0x0007 0x0007)) fun t =>
      lastWord t == some 0x20000003 && t.fault == some ⟨.peekEmpty, .rx, .rxt⟩ := by decide

/-- V1, V5. -/
theorem test_queries :
    answers (exec (.used .tx) (tx16 .txt 0xFFFE 0xFFF0)) 0x0000000E ∧
    answers (exec (.isFull .tx) (tx16 .txt 0x0000 0xFFF0)) 1 ∧
    answers (exec (.isFull .tx) (tx16 .txt 0x0000 0xFFF1)) 0 ∧
    answers (exec (.isEmpty .tx) (tx16 .isr 3 3)) 1 ∧ answers (exec (.isEmpty .rx) (rx16 .rxt 3 0)) 0 ∧
    answers (exec (.cap .rx) (at16 .rxt)) 0x00000010 ∧ answers (exec (.cap .tx) (at16 .host)) 0x00000010 := by
  decide

/-- V2 and P5: the halted port answers the first violation's code, another port goes on. -/
theorem test_halted_port :
    answers (exec (.used .tx)
      { tx16 .txt 4 0 with
        run := ⟨.halted, .idle, .halted, .idle, .idle⟩, fault := some ⟨.popEmpty, .tx, .isr⟩ }) 0x20000002 ∧
    answers (exec (.used .rx)
      { rx16 .rxt 4 0 with
        run := ⟨.halted, .idle, .halted, .idle, .idle⟩, fault := some ⟨.popEmpty, .tx, .isr⟩ }) 4 := by decide

/-! ## Flow control -/

/-- The example of R152. -/
theorem test_snap :
    nextIs (exec (.snap .tx) (tx16 .txt 0x0010 0x0000)) fun t => t.snap.tx == ⟨0x0010, 0x0000⟩ := by decide

/-- V7. -/
theorem test_fcTxt_enables :
    nextIs (exec .fcTxt (tx16 .txt 1 0)) fun t => t.txie && lastWord t == some 0 := by decide

/-- V15: full before, nothing popped: no enable. -/
theorem test_fcTxt_leaves :
    nextIs (exec .fcTxt { tx16 .txt 0x0010 0 with snap := ⟨⟨0, 0⟩, ⟨0x0010, 0⟩⟩ }) fun t => !t.txie := by decide

/-- 2.3, `FC.TXI` at u = 0. -/
theorem test_fcTxi_empty :
    nextIs (exec .fcTxi { tx16 .isr 9 9 with txie := true }) fun t => !t.txie && t.wake.tx == .raised := by decide

/-- 2.3, `FC.TXI` at u = 8 and 9. -/
theorem test_fcTxi_half :
    (nextIs (exec .fcTxi { tx16 .isr 8 0 with txie := true }) fun t => t.txie && t.wake.tx == .raised) ∧
    (nextIs (exec .fcTxi { tx16 .isr 9 0 with txie := true }) fun t => t.txie && t.wake.tx == .idle) := by decide

/-- V18 and V19: was full and is not; was not full and nothing was pushed. -/
theorem test_fcRxt :
    (nextIs (exec .fcRxt { rx16 .rxt 0x10 8 with snap := ⟨⟨0x10, 0⟩, ⟨0, 0⟩⟩ }) fun t => t.rxie) ∧
    (nextIs (exec .fcRxt { rx16 .rxt 0x10 0x10 with snap := ⟨⟨0x10, 8⟩, ⟨0, 0⟩⟩ }) fun t => !t.rxie) := by decide

/-- 2.3, `FC.RXI` at u = 0, 3 and 7. -/
theorem test_fcRxi_below_half :
    (nextIs (exec .fcRxi { rx16 .isr 5 5 with tmr := .armed }) fun t => t.tmr == .armed && t.wake.rx == .idle) ∧
    (nextIs (exec .fcRxi (rx16 .isr 3 0)) fun t =>
      t.tmr == .armed && t.wake.rx == .idle && t.trace == [.startOneShot 1]) ∧
    (nextIs (exec .fcRxi { rx16 .isr 7 0 with tmr := .armed }) fun t => t.tmr == .armed && t.trace == []) := by
  decide

/-- 2.3, `FC.RXI` at u = 8 with the timer armed, and at u = 16. -/
theorem test_fcRxi_wakes :
    (nextIs (exec .fcRxi { rx16 .isr 8 0 with tmr := .armed, rxie := true }) fun t =>
      t.tmr == .idle && t.wake.rx == .raised && t.rxie && t.trace == [.stop]) ∧
    (nextIs (exec .fcRxi { rx16 .isr 16 0 with rxie := true }) fun t =>
      !t.rxie && t.wake.rx == .raised && t.trace == [.disableReceiveInterrupt]) := by decide

/-! ## Interrupt handler -/

/-- V9. -/
theorem test_isr_nothing_pending :
    nextIs (exec .isr { at16 .isr with dev := ⟨[false], [], [], [], [], []⟩ }) fun t =>
      lastWord t == some 0 && t.trace == [.pollPendingInterrupt false] := by decide

/-- P3: the handler invocation of Scenario C. -/
theorem test_isr_receives_three :
    nextIs (exec .isr
      { at16 .isr with
        rxie := true
        dev := ⟨[true, false], [true], [false], [some 0x61, some 0x62, some 0x63, none], [], [⟨false, false⟩]⟩ })
      fun t =>
        t.storage.rx == [(0, 0x61), (1, 0x62), (2, 0x63)] && t.widx.rx == 3 && t.tmr == .armed && t.rxie &&
        lastWord t == some 0 := by decide

/-- V13. -/
theorem test_errChk :
    nextIs (exec .errChk
      { at16 .isr with frmCnt := 0xFFFFFFFF, dev := ⟨[], [], [], [], [], [⟨true, true⟩]⟩ }) fun t =>
        t.ovrCnt == 1 && t.frmCnt == 0 && lastWord t == some 0 := by decide

/-- V10. -/
theorem test_rxBurst_full :
    nextIs (exec .rxBurst { rx16 .isr 0x10 0 with rxie := true, dev := ⟨[], [], [], [some 0x77], [], []⟩ }) fun t =>
      t.dev.rx == [some 0x77] && !t.rxie && t.wake.rx == .raised := by decide

/-- P6: four bytes fill a ring of capacity 4, two stay with the device. -/
theorem test_rxBurst_fills :
    nextIs (exec .rxBurst
      { at16 .isr with
        cap := ⟨4, 4⟩, rxie := true
        dev := ⟨[], [], [], [some 0xD0, some 0xD1, some 0xD2, some 0xD3, some 0xD4, some 0xD5], [], []⟩ }) fun t =>
      t.storage.rx == [(0, 0xD0), (1, 0xD1), (2, 0xD2), (3, 0xD3)] && t.dev.rx == [some 0xD4, some 0xD5] &&
      !t.rxie && t.wake.rx == .raised := by decide

/-- V11. -/
theorem test_txBurst_refused :
    nextIs (exec .txBurst
      { tx16 .isr 5 0 with
        txie := true, storage := ⟨[], cellsFrom 0x30 5⟩, dev := ⟨[], [], [], [], [false], []⟩ }) fun t =>
      t.ridx.tx == 0 && t.txie && t.wake.tx == .raised && t.trace == [.writeByteNonBlocking 0x30 false] := by decide

/-- V12. -/
theorem test_txBurst_empty :
    nextIs (exec .txBurst { tx16 .isr 9 9 with txie := true, dev := ⟨[], [], [], [], [true], []⟩ }) fun t =>
      t.dev.tx == [true] && !t.txie && t.wake.tx == .raised := by decide

/-! ## Thread calls -/

/-- V15. -/
theorem test_wrnb_full :
    nextIs (exec (.wrnb 3) { tx16 .txt 0x10 0 with txie := true, payload := [0x01, 0x02, 0x03] }) fun t =>
      lastWord t == some 0x10000000 && t.storage.tx == [] && t.snap.tx == ⟨0x10, 0⟩ && t.txie := by decide

/-- V16. -/
theorem test_wrnb_partial :
    nextIs (exec (.wrnb 5)
      { tx16 .txt 0xE 0 with txie := true, payload := [0xA0, 0xA1, 0xA2, 0xA3, 0xA4] }) fun t =>
      lastWord t == some 0x00000002 && t.memRead .tx 14 == 0xA0 && t.memRead .tx 15 == 0xA1 &&
      t.widx.tx == 0x10 := by decide

/-- V14. -/
theorem test_write_nothing :
    nextIs (exec (.write 0) { at16 .txt with snap := ⟨⟨0, 0⟩, ⟨7, 7⟩⟩ }) fun t =>
      lastWord t == some 0 && t.snap.tx == ⟨7, 7⟩ && !t.txie := by decide

/-- P2 in small: capacity 4, five bytes: four are pushed, the enable, then the park with the fifth to go. -/
theorem test_write_parks :
    nextIs (exec (.write 5)
      { at16 .txt with cap := ⟨4, 4⟩, payload := [0xB0, 0xB1, 0xB2, 0xB3, 0xB4] }) fun t =>
      t.storage.tx == cellsFrom 0xB0 4 && t.txie && t.wake.tx == .parked && t.run.txt == .parked &&
      t.seq.txt == some ⟨.wait2 .tx, [.writeWait 5 [0xB4]]⟩ && t.responses == [] := by decide

/-- V17. -/
theorem test_rdnb_empty :
    nextIs (exec (.rdnb 4) { at16 .rxt with rxie := true }) fun t =>
      lastWord t == some 0x10000000 && t.rxie := by decide

/-- V18. -/
theorem test_rdnb_from_full :
    nextIs (exec (.rdnb 8) { rx16 .rxt 0x10 0 with storage := ⟨cellsFrom 0x00 16, []⟩ }) fun t =>
      t.responses == [⟨.rxt, 0x00000008, [0x00, 0x01, 0x02, 0x03, 0x04, 0x05, 0x06, 0x07]⟩] &&
      t.ridx.rx == 8 && t.rxie && t.snap.rx == ⟨0x10, 0⟩ := by decide

/-- V19. -/
theorem test_read_present :
    nextIs (exec (.read 100) { rx16 .rxt 0x10 8 with storage := ⟨cellsFrom 0x00 16, []⟩ }) fun t =>
      t.responses == [⟨.rxt, 0x00000008, [0x08, 0x09, 0x0A, 0x0B, 0x0C, 0x0D, 0x0E, 0x0F]⟩] &&
      t.ridx.rx == 0x10 && !t.rxie := by decide

/-- P3: the read that parks. -/
theorem test_read_parks :
    nextIs (exec (.read 16) { at16 .rxt with rxie := true }) fun t =>
      t.wake.rx == .parked && t.run.rxt == .parked && t.seq.rxt == some ⟨.wait2 .rx, [.readWait 16]⟩ &&
      t.responses == [] := by decide

/-! ## Wake signal, timer, lifecycle (95_test_vectors.md 2.6, 2.7) -/

theorem test_raise_parked :
    nextIs (exec (.raise .tx)
      { at16 .isr with
        wake := ⟨.idle, .parked⟩, run := ⟨.parked, .idle, .idle, .idle, .idle⟩
        seq := ⟨some ⟨.wait2 .tx, []⟩, none, none, none, none⟩ }) fun t =>
      t.wake.tx == .idle && t.run.txt == .busy := by decide

theorem test_raise_idle : nextIs (exec (.raise .rx) (at16 .isr)) fun t => t.wake.rx == .raised := by decide

theorem test_wait_raised :
    nextIs (exec (.wait .rx) { at16 .rxt with wake := ⟨.raised, .idle⟩ }) fun t =>
      t.wake.rx == .idle && t.run.rxt == .idle && lastWord t == some 0 := by decide

theorem test_wait_idle :
    nextIs (exec (.wait .rx) (at16 .rxt)) fun t =>
      t.wake.rx == .parked && t.run.rxt == .parked && t.responses == [] := by decide

theorem test_wreset :
    (nextIs (exec (.wreset .tx) { at16 .host with wake := ⟨.idle, .raised⟩ }) fun t => t.wake.tx == .idle) ∧
    (nextIs (exec (.wreset .tx) { at16 .host with wake := ⟨.idle, .parked⟩ }) fun t => t.wake.tx == .parked) := by
  decide

theorem test_tarm :
    (nextIs (exec .tarm (at16 .isr)) fun t => t.tmr == .armed && t.trace == [.startOneShot 1]) ∧
    (nextIs (exec .tarm { at16 .isr with tmr := .armed }) fun t => t.tmr == .armed && t.trace == []) := by decide

theorem test_tstop :
    (nextIs (exec .tstop { at16 .isr with tmr := .armed }) fun t => t.tmr == .idle && t.trace == [.stop]) ∧
    (nextIs (exec .tstop (at16 .isr)) fun t => t.tmr == .idle && t.trace == []) := by decide

theorem test_tfire :
    (nextIs (exec .tfire { at16 .tmr with tmr := .armed }) fun t => t.tmr == .idle && t.wake.rx == .raised) ∧
    (nextIs (exec .tfire (at16 .tmr)) fun t => t.tmr == .idle && t.wake.rx == .raised) := by decide

theorem test_construct_answers :
    answers (exec (.construct .rx 0) State.reset) 0x30000001 ∧
    answers (exec (.construct .rx 1) State.reset) 0x30000002 ∧
    answers (exec (.construct .rx 3) State.reset) 0x30000001 ∧
    answers (exec (.construct .tx 24) State.reset) 0x30000001 ∧
    answers (exec (.construct .tx 32768) State.reset) 0x30000002 ∧
    answers (exec (.construct .tx 65535) State.reset) 0x30000001 ∧
    answers (exec (.construct .rx 32) (at16 .host)) 0x30000003 := by decide

theorem test_construct_accepts :
    (nextIs (exec (.construct .rx 2) State.reset) fun t => t.cap.rx == 2 && lastWord t == some 0) ∧
    (nextIs (exec (.construct .tx 16384) State.reset) fun t => t.cap.tx == 16384 && lastWord t == some 0) := by
  decide

theorem test_setup :
    (nextIs (exec .setup (at16 .host)) fun t => t.rxie && !t.txie && lastWord t == some 0) ∧
    answers (exec .setup { State.reset with cap := ⟨16, 0⟩ }) 0x30000004 := by decide

/-- 2.7: `USED TX` before any construct. -/
theorem test_before_construct : answers (exec (.used .tx) { State.reset with issuer := .txt }) 0x30000004 := by
  decide

/-! ## Steps -/

/-- A placed word runs next: `CONSTRUCT RX, 16` from reset. -/
theorem test_placed_word :
    nextIs (step (State.reset.withFetchWord 32 0x60000010)) fun t => t.cap.rx == 16 && lastWord t == some 0 := by
  decide

/-- A reserved word at a port answers `ILLEGAL` (2.7). -/
theorem test_step_illegal :
    nextIs (step { at16 .host with ports := ⟨[⟨0x07010000, []⟩], [], [], [], []⟩, sched := [.run .txt] }) fun t =>
      lastWord t == some 0x40000000 && t.cap == ⟨16, 16⟩ := by decide

/-- A thread's turn is the handler's while it is busy in `PREEMPTIVE` mode (20_memory.md R73). -/
theorem test_handler_holds :
    nextIs (step
      { tx16 .host 3 0 with
        run := ⟨.idle, .idle, .busy, .idle, .idle⟩, seq := ⟨none, none, some ⟨.push1 .rx 0x41, []⟩, none, none⟩
        ports := ⟨[⟨0x03010000, []⟩], [], [], [], []⟩, sched := [.run .txt] }) fun t =>
      t.seq.isr == some ⟨.push2 .rx 0x41 0, []⟩ && t.ports.txt == [⟨0x03010000, []⟩] &&
      t.sched == [.run .txt] := by decide

/-! ## Witnesses: states that meet the hypotheses of the statements, clause by clause -/

/-- `TXT` inside `WRNB`, about to look at `ridx` in its first `PUSH`, the transmit interrupt on. -/
def inWrnb : State :=
  { tx16 .txt 3 0 with
    rxie := true, txie := true, snap := ⟨⟨0, 0⟩, ⟨3, 0⟩⟩, run := ⟨.busy, .idle, .idle, .idle, .idle⟩
    seq := ⟨some ⟨.push2 .tx 0x41 3, [.wrnbPush [0x42] 1]⟩, none, none, none, none⟩, sched := [.event .txt] }

/-- `ISR` inside `TXBURST`, about to disable on an empty ring. -/
def inHandler : State :=
  { tx16 .isr 9 9 with
    rxie := true, txie := true, run := ⟨.idle, .idle, .busy, .idle, .idle⟩
    seq := ⟨none, none, some ⟨.fcTxi3 0, [.txBurstFc, .isrTxBurst]⟩, none, none⟩ }

/-- `TXT` parked on `wake[TX]`. -/
def parkedWriter : State :=
  { at16 .isr with
    wake := ⟨.idle, .parked⟩, run := ⟨.parked, .idle, .idle, .idle, .idle⟩
    seq := ⟨some ⟨.wait2 .tx, []⟩, none, none, none, none⟩ }

/-- `TXT` about to perform the violation event of a lone `PUSH` on a full ring. -/
def inViolation : State :=
  { tx16 .txt 16 0 with
    run := ⟨.busy, .idle, .idle, .idle, .idle⟩
    seq := ⟨some ⟨.violate .pushFull .tx, []⟩, none, none, none, none⟩, sched := [.event .txt] }

/-- `TXT` halted by it. -/
def haltedWriter : State :=
  { tx16 .txt 16 0 with
    fault := some ⟨.pushFull, .tx, .txt⟩, run := ⟨.halted, .idle, .idle, .idle, .idle⟩
    ports := ⟨[⟨0x03010000, []⟩], [], [], [], []⟩, sched := [.run .txt] }

theorem witness_DecodeOfEncode : (Instr.wrnb 65535).wellFormed = true := by decide

theorem witness_EncodeOfDecode : decode 0x6001FFFF = .ok (.construct .tx 0xFFFF) := rfl

theorem witness_MatchMaskSelectsOperation : decode 0x0000FF00 = .error .argNotZero ∧ decode 0x000000FF = .ok (.push .rx 0xFF) :=
  ⟨rfl, rfl⟩

theorem witness_StepRunsDecodedCommand :
    (∃ s : State, isrHolds s = false ∧ s.run.get .txt = .halted ∧ s.ports.get .txt = [⟨0x03010000, []⟩] ∧
      decode 0x03010000 = .ok (.used .tx) ∧ s.sched = [.run .txt]) ∧
    (∃ s : State, isrHolds s = false ∧ s.run.get .txt = .idle ∧ s.ports.get .txt = [⟨0x03010000, []⟩] ∧
      decode 0x03010000 = .ok (.used .tx) ∧ s.sched = [.event .txt]) ∧
    isrHolds inWrnb = false ∧ inWrnb.run.get .txt = .busy ∧ inWrnb.sched = [.event .txt] :=
  ⟨⟨haltedWriter, by decide, by decide, by decide, rfl, by decide⟩,
    ⟨{ at16 .txt with ports := ⟨[⟨0x03010000, []⟩], [], [], [], []⟩, sched := [.event .txt] },
      by decide, by decide, by decide, rfl, by decide⟩,
    by decide, by decide, by decide⟩

theorem witness_ParkedAgentPerformsNoEvent :
    (isrHolds parkedWriter = false ∧ parkedWriter.run.get .txt = .parked ∧
      { parkedWriter with sched := [.run .txt] }.sched = [.run .txt]) ∧
    isrHolds State.reset = false ∧ State.reset.sched = [] := by decide

theorem witness_PreemptiveHandlerIsContiguous :
    inHandler.mode = .preemptive ∧ inHandler.run.get .isr = .busy ∧ (∀ ts, inHandler.sched ≠ .powerOn :: ts) ∧
    ∃ t, step inHandler = .next t :=
  ⟨rfl, rfl, ne_powerOn _ (by decide), completes_next _ (by decide)⟩

theorem witness_EventRunEqualsMeaning :
    (Instr.write 5).wellFormed = true ∧ (at16 .txt).run.get .txt = .idle ∧ (at16 .txt).seq.get .txt = none ∧
    (at16 .txt).issuer = .txt := by decide

theorem witness_PowerOnResetState : { haltedWriter with sched := [.powerOn] }.sched = [.powerOn] := by decide

theorem witness_PlacedWordRunsNext : decode 0x61000000 = .ok .setup := rfl

theorem witness_IllegalCommandChangesNothing :
    accepts (at16 .tmr).issuer (.raise .rx) = false ∧
    ∃ s : State, isrHolds s = false ∧ s.run.get .host = .idle ∧ s.sched = [.event .host] ∧
      s.ports.get .host = [⟨0xFFFFFFFF, []⟩] ∧ decode 0xFFFFFFFF = .error .reservedOpcode :=
  ⟨by decide,
    { at16 .host with ports := ⟨[], [], [], [], [⟨0xFFFFFFFF, []⟩]⟩, sched := [.event .host] },
    by decide, by decide, by decide, by decide, rfl⟩

theorem witness_HaltedPortAnswersStoredCode :
    accepts haltedWriter.issuer (.used .tx) = true ∧ haltedWriter.run.get haltedWriter.issuer = .halted ∧
    haltedWriter.fault = some ⟨.pushFull, .tx, .txt⟩ := by decide

theorem witness_UnconstructedChannelRejected :
    accepts State.reset.issuer .setup = true ∧ State.reset.run.get State.reset.issuer ≠ .halted ∧
    .tx ∈ channelsNeeded .setup ∧ State.reset.cap.get .tx = 0 := by decide

theorem witness_SecondOperationAtBusyPortRefused :
    accepts inWrnb.issuer (.used .tx) = true ∧ needsConstruct (.used .tx) inWrnb = false ∧
    inWrnb.run.get inWrnb.issuer = .busy := by decide

/-- One slot of room, across the counter wrap. -/
theorem witness_PushStoresAndAdvances :
    ready (.push .tx 0xBB) (tx16 .txt 0xFFFF 0xFFF0) ∧
    ((tx16 .txt 0xFFFF 0xFFF0).widx.get .tx - (tx16 .txt 0xFFFF 0xFFF0).ridx.get .tx).toNat <
      ((tx16 .txt 0xFFFF 0xFFF0).cap.get .tx).toNat := by decide

theorem witness_PopReturnsByteAndAdvances :
    ready (.pop .rx) (rx16 .rxt 0 0xFFFF) ∧ (rx16 .rxt 0 0xFFFF).widx.get .rx ≠ (rx16 .rxt 0 0xFFFF).ridx.get .rx := by
  decide

theorem witness_PeekReturnsByteAndPopAgrees :
    ready (.peek .tx) (tx16 .isr 6 4) ∧ (tx16 .isr 6 4).widx.get .tx ≠ (tx16 .isr 6 4).ridx.get .tx := by decide

/-- A full ring and an empty one; the violation event; each check as an event inside a composite. -/
theorem witness_ContractViolationHaltsAgent :
    (ready (.push .tx 0x99) (tx16 .txt 16 0) ∧
      ((tx16 .txt 16 0).cap.get .tx).toNat ≤ ((tx16 .txt 16 0).widx.get .tx - (tx16 .txt 16 0).ridx.get .tx).toNat) ∧
    (ready (.pop .rx) (rx16 .rxt 7 7) ∧ ready (.peek .rx) (rx16 .rxt 7 7) ∧
      (rx16 .rxt 7 7).widx.get .rx = (rx16 .rxt 7 7).ridx.get .rx) ∧
    inViolation.seq.get .txt = some ⟨.violate .pushFull .tx, []⟩ ∧
    ({ inWrnb with widx := ⟨0, 19⟩, ridx := ⟨0, 0xFFF3⟩ }.seq.get .txt = some ⟨.push2 .tx 0x41 3, [.wrnbPush [0x42] 1]⟩ ∧
      (inWrnb.cap.get .tx).toNat ≤ ((3 : Index) - 0xFFF3).toNat) ∧
    ({ inWrnb with seq := ⟨none, some ⟨.pop2 .rx 0, []⟩, none, none, none⟩ }.seq.get .rxt =
      some ⟨.pop2 .rx (inWrnb.widx.get .rx), []⟩) ∧
    ({ inWrnb with seq := ⟨none, some ⟨.peek2 .rx 0, []⟩, none, none, none⟩ }.seq.get .rxt =
      some ⟨.peek2 .rx (inWrnb.widx.get .rx), []⟩) := by decide

/-- Full, one below full, empty. -/
theorem witness_QueriesAnswerFromCounters :
    ready (.used .tx) (tx16 .txt 16 0) ∧ ready (.isFull .tx) (tx16 .isr 16 0) ∧
    ready (.isFull .tx) (tx16 .isr 15 0) ∧ ready (.isEmpty .rx) (rx16 .rxt 3 3) ∧ ready (.cap .rx) (at16 .host) := by
  decide

/-- `PARALLEL` mode, one agent inside an operation at a position, the rings with one byte each at slot 3. -/
def atPos (a : Agent) (p : Pos) (cs : List Caller) : State :=
  { at16 a with
    mode := .parallel, widx := ⟨4, 4⟩, ridx := ⟨3, 3⟩, storage := ⟨[(3, 0x61), (4, 0x62)], [(3, 0x30), (4, 0x31)]⟩
    run := (State.reset.run).set a .busy, seq := (State.reset.seq).set a (some ⟨p, cs⟩)
    dev := ⟨[], [], [], [], [true], []⟩ }

/-- Legal, inside an operation, and its next event gives a next state. -/
def runsFrom (a : Agent) (p : Pos) (cs : List Caller) : Bool :=
  ringInv (atPos a p cs) && (atPos a p cs).run.get a == .busy && (atPos a p cs).seq.get a == some ⟨p, cs⟩ &&
  completes (agentEvent a (atPos a p cs))

/-- Room for exactly one byte; exactly one byte there; each of the five events, alone and inside a composite. -/
theorem witness_RingIsFifoQueue :
    (ringOk (tx16 .txt 15 0) .tx = true ∧ ready (.push .tx 0x41) (tx16 .txt 15 0) ∧
      usedNow (tx16 .txt 15 0) .tx < ((tx16 .txt 15 0).cap.get .tx).toNat) ∧
    (ringOk (rx16 .rxt 4 3) .rx = true ∧ ready (.pop .rx) (rx16 .rxt 4 3) ∧ ready (.peek .rx) (rx16 .rxt 4 3) ∧
      usedNow (rx16 .rxt 4 3) .rx ≠ 0) ∧
    runsFrom .txt .fcTxt3 [] = true ∧
    runsFrom .txt (.push4 .tx 0x55 4) [.wrnbPush [] 1] = true ∧
    runsFrom .txt (.push5 .tx 0x31 4) [] = true ∧ runsFrom .isr (.push5 .rx 0x62 4) [.rxBurstPush] = true ∧
    runsFrom .rxt (.pop5 .rx 3 0x61) [] = true ∧ runsFrom .rxt (.pop5 .rx 3 0x61) [.rdnbPop 0 []] = true ∧
    runsFrom .rxt (.pop5 .rx 3 0x61) [.rdnbPop 1 [0x60]] = true ∧
    runsFrom .rxt (.peek4 .rx 3) [] = true ∧ runsFrom .isr (.peek4 .tx 3) [.txBurstPeek] = true ∧
    runsFrom .isr (.txBurst3 0x30) [] = true := by decide

theorem witness_SnapLatchesCounters : ready (.snap .rx) (rx16 .rxt 4 3) ∧ ready (.snap .tx) (tx16 .txt 4 3) := by
  decide

theorem witness_ThreadPolicyEnables : ready .fcTxt (tx16 .txt 1 0) ∧ ready .fcRxt (rx16 .rxt 16 8) := by decide

/-- At half, above it, empty; a parked waiter. -/
theorem witness_TransmitHandlerPolicy :
    ready .fcTxi (tx16 .isr 8 0) ∧ ready .fcTxi (tx16 .isr 9 0) ∧ ready .fcTxi (tx16 .isr 9 9) ∧
    ready .fcTxi parkedWriter := by decide

/-- At half; one below half; one byte; empty; full. -/
theorem witness_ReceiveHandlerPolicy :
    (ready .fcRxi (rx16 .isr 8 0) ∧ (rx16 .isr 8 0).cap.rx.toNat / 2 ≤ usedNow (rx16 .isr 8 0) .rx) ∧
    (ready .fcRxi (rx16 .isr 7 0) ∧ usedNow (rx16 .isr 7 0) .rx < (rx16 .isr 7 0).cap.rx.toNat / 2 ∧
      0 < usedNow (rx16 .isr 7 0) .rx) ∧
    (ready .fcRxi (rx16 .isr 5 5) ∧ usedNow (rx16 .isr 5 5) .rx < (rx16 .isr 5 5).cap.rx.toNat / 2 ∧
      usedNow (rx16 .isr 5 5) .rx = 0) ∧
    ready .fcRxi (rx16 .isr 16 0) := by decide

theorem witness_FlowReevaluationIdempotent :
    ready .fcTxt (tx16 .txt 1 0) ∧ ready .fcTxi (tx16 .isr 9 9) ∧ ready .fcRxt (rx16 .rxt 16 8) ∧
    ready .fcRxi (rx16 .isr 3 0) ∧ (rx16 .isr 3 0).wake.rx ≠ .parked := by decide

theorem witness_HandlerReturnsWhenNotPending :
    ready .isr { at16 .isr with dev := ⟨[false], [], [], [], [], []⟩ } ∧
    ready .isr { at16 .isr with dev := ⟨[true, true, false], [], [], [], [], []⟩ } ∧
    ready .isr { at16 .isr with dev := ⟨[true, true], [], [], [], [], []⟩ } ∧
    [true, true, false] = [true, true] ++ false :: [] ∧ ∀ p ∈ [true, true], p = true := by decide

/-- The hypotheses of one iteration: the two ready answers, the bytes received, the writes accepted. -/
def iterates (s : State) (rr tr : Bool) (xs : List Byte) (k : Nat) : Prop :=
  ready .isr s ∧ ringOk s .rx = true ∧ ringOk s .tx = true ∧
  s.dev = ⟨true :: false :: [], rr :: [], tr :: [], xs.map some ++ none :: [],
    List.replicate k true ++ false :: [], ⟨true, false⟩ :: []⟩

/-- Neither ready; only receive, leaving one slot free; only transmit, leaving one byte; both, the RX ring filled
with a byte left at the device and the TX ring emptied. -/
theorem witness_HandlerServesOneIteration :
    (∃ s, iterates s false false [0x61] 1 ∧ roomNow s .rx = 2 ∧ usedNow s .tx = 2) ∧
    (∃ s, iterates s true false [0x61] 1 ∧ roomNow s .rx = 2) ∧
    (∃ s, iterates s false true [] 1 ∧ usedNow s .tx = 2) ∧
    (∃ s, iterates s true true [0x61, 0x62] 1 ∧ roomNow s .rx = 1 ∧ usedNow s .tx = 1) :=
  ⟨⟨{ at16 .isr with
        widx := ⟨14, 2⟩
        dev := ⟨[true, false], [false], [false], [some 0x61, none], [true, false], [⟨true, false⟩]⟩ },
      ⟨by decide, by decide, by decide, by decide⟩, by decide, by decide⟩,
    ⟨{ at16 .isr with
        widx := ⟨14, 2⟩
        dev := ⟨[true, false], [true], [false], [some 0x61, none], [true, false], [⟨true, false⟩]⟩ },
      ⟨by decide, by decide, by decide, by decide⟩, by decide⟩,
    ⟨{ at16 .isr with
        widx := ⟨14, 2⟩
        dev := ⟨[true, false], [false], [true], [none], [true, false], [⟨true, false⟩]⟩ },
      ⟨by decide, by decide, by decide, by decide⟩, by decide⟩,
    ⟨{ at16 .isr with
        widx := ⟨15, 1⟩
        dev := ⟨[true, false], [true], [true], [some 0x61, some 0x62, none], [true, false], [⟨true, false⟩]⟩ },
      ⟨by decide, by decide, by decide, by decide⟩, by decide, by decide⟩⟩

theorem witness_ErrorFlagsAreCounted :
    ready .errChk { at16 .isr with dev := ⟨[], [], [], [], [], [⟨true, true⟩]⟩ } := by decide

/-- The device dry first; the ring full first. -/
theorem witness_RxBurstFillsRing :
    (∃ s : State, ready .rxBurst s ∧ ringOk s .rx = true ∧ s.dev.rx = [0x61].map some ++ none :: []) ∧
    (∃ s : State, ready .rxBurst s ∧ ringOk s .rx = true ∧ roomNow s .rx = 1 ∧
      s.dev.rx = [0x61, 0x62].map some ++ none :: []) :=
  ⟨⟨{ at16 .isr with dev := ⟨[], [], [], [some 0x61, none], [], []⟩ }, by decide, by decide, by decide⟩,
    ⟨{ rx16 .isr 15 0 with dev := ⟨[], [], [], [some 0x61, some 0x62, none], [], []⟩ },
      by decide, by decide, by decide, by decide⟩⟩

/-- The device refuses first; the ring empty first. -/
theorem witness_TxBurstDrainsRing :
    (∃ s : State, ready .txBurst s ∧ usedNow s .tx = 2 ∧ s.dev.tx = List.replicate 1 true ++ false :: []) ∧
    (∃ s : State, ready .txBurst s ∧ usedNow s .tx = 2 ∧ s.dev.tx = List.replicate 2 true ++ false :: []) :=
  ⟨⟨{ tx16 .isr 2 0 with dev := ⟨[], [], [], [], [true, false], []⟩ }, by decide, by decide, by decide⟩,
    ⟨{ tx16 .isr 2 0 with dev := ⟨[], [], [], [], [true, true, false], []⟩ }, by decide, by decide, by decide⟩⟩

/-- `LEN` at its ends, the ring full and empty. -/
theorem witness_WriteNonBlockingAppendsPrefix :
    (ready (.wrnb 0) (at16 .txt) ∧ ringOk (at16 .txt) .tx = true) ∧
    (ready (.wrnb 65535) (tx16 .txt 16 0) ∧ ringOk (tx16 .txt 16 0) .tx = true) := by decide

/-- Exactly the room; one more than the room; a waiter that is parked already. -/
theorem witness_WriteCompletesOrParks :
    (ready (.write 16) (at16 .txt) ∧ 16 < 65536 ∧ ringOk (at16 .txt) .tx = true ∧ 16 ≤ roomNow (at16 .txt) .tx) ∧
    (ready (.write 17) (at16 .txt) ∧ roomNow (at16 .txt) .tx < 17 ∧ (at16 .txt).wake.tx ≠ .parked) ∧
    (∃ s : State, ready (.write 17) s ∧ ringOk s .tx = true ∧ roomNow s .tx < 17 ∧ s.wake.tx = .parked) :=
  ⟨by decide, by decide, ⟨{ at16 .txt with wake := ⟨.idle, .parked⟩ }, by decide⟩⟩

theorem witness_ReadNonBlockingReturnsOldest :
    ready (.rdnb 0) (at16 .rxt) ∧ ready (.rdnb 8) (rx16 .rxt 16 0) ∧ ready (.rdnb 65535) (rx16 .rxt 3 0) := by decide

theorem witness_ReadReturnsOrParks :
    (ready (.read 0) (at16 .rxt) ∧ ready (.read 1) (rx16 .rxt 1 0) ∧ usedNow (rx16 .rxt 1 0) .rx ≠ 0) ∧
    (ready (.read 1) (at16 .rxt) ∧ usedNow (at16 .rxt) .rx = 0 ∧ (at16 .rxt).wake.rx ≠ .parked) ∧
    (ready (.read 1) { at16 .rxt with wake := ⟨.parked, .idle⟩ } ∧
      usedNow { at16 .rxt with wake := ⟨.parked, .idle⟩ } .rx = 0 ∧
      { at16 .rxt with wake := ⟨.parked, .idle⟩ }.wake.rx = .parked) := by decide

theorem witness_WrittenBytesReachDeviceInOrder :
    ∃ s : State, s.issuer = .txt ∧ ready (.wrnb 3) s ∧ ringOk s .tx = true ∧ s.run.get .isr = .idle ∧
      s.dev.tx = List.replicate 4 true ++ [] ∧ s.cap.tx.toNat ≤ 4 :=
  ⟨{ tx16 .txt 1 0 with cap := ⟨4, 4⟩, dev := ⟨[], [], [], [], [true, true, true, true], []⟩ },
    by decide, by decide, by decide, by decide, by decide, by decide⟩

theorem witness_RaiseAndResetTransitions :
    ready (.raise .tx) parkedWriter ∧ ready (.raise .rx) (at16 .isr) ∧ ready (.wreset .tx) (at16 .host) := by decide

theorem witness_WaitTransitions :
    (ready (.wait .rx) { at16 .rxt with wake := ⟨.raised, .idle⟩ } ∧ ready (.wait .rx) (at16 .rxt) ∧
      (at16 .rxt).wake.get .rx = .idle) ∧
    (ready (.wait .tx) { at16 .txt with wake := ⟨.idle, .parked⟩ }) ∧
    (∃ s : State, s.sched = [.run (threadOf .tx)] ∧ isrHolds s = false ∧ s.run.get (threadOf .tx) = .busy ∧
      s.seq.get (threadOf .tx) = some ⟨.wait2 .tx, []⟩) :=
  ⟨by decide, by decide,
    ⟨{ parkedWriter with
        wake := ⟨.idle, .idle⟩, run := ⟨.busy, .idle, .idle, .idle, .idle⟩, sched := [.run .txt] },
      by decide, by decide, by decide, by decide⟩⟩

theorem witness_TimerArmStopFire :
    ready .tarm (at16 .isr) ∧ ready .tstop { at16 .isr with tmr := .armed } ∧ ready .tfire (at16 .tmr) := by decide

/-- Both ends of the range. -/
theorem witness_ConstructAcceptsLegalCapacity :
    (ready (.construct .rx 2) State.reset ∧ State.reset.cap.get .rx = 0 ∧ (2 : Index).toNat = 2 ^ 1) ∧
    (ready (.construct .tx 16384) State.reset ∧ State.reset.cap.get .tx = 0 ∧ (16384 : Index).toNat = 2 ^ 14) := by
  decide

/-- Neither 0 nor 3 is a power of two. -/
theorem witness_ConstructRejectsInOrder :
    (ready (.construct .rx 16) (at16 .host) ∧ (at16 .host).cap.get .rx ≠ 0) ∧
    (ready (.construct .rx 0) State.reset ∧ ¬∃ k, (0 : Index).toNat = 2 ^ k) ∧
    (ready (.construct .rx 1) State.reset ∧ (1 : Index).toNat = 2 ^ 0) ∧
    (ready (.construct .tx 32768) State.reset ∧ (32768 : Index).toNat = 2 ^ 15) :=
  ⟨by decide, ⟨by decide, fun ⟨k, h⟩ => (Nat.two_pow_pos k).ne h⟩, by decide, by decide⟩

theorem witness_SetupEnablesReceive : ready .setup (at16 .host) := by decide

theorem witness_QueryFrame :
    (∃ t, exec (.used .tx) (tx16 .txt 4 0) = .next t) ∧ (∃ t, exec (.isFull .tx) (tx16 .txt 4 0) = .next t) ∧
    (∃ t, exec (.isEmpty .tx) (tx16 .txt 4 0) = .next t) ∧ (∃ t, exec (.cap .tx) (tx16 .txt 4 0) = .next t) ∧
    (∃ t, exec (.peek .rx) (rx16 .rxt 7 7) = .next t) ∧
    (∃ t, exec (.peek .tx) { tx16 .isr 6 4 with storage := ⟨[], [(4, 0x5A)]⟩ } = .next t) := by
  refine ⟨?_, ?_, ?_, ?_, ?_, ?_⟩ <;> exact completes_next _ (by decide)

theorem witness_PushPopFrame :
    (∃ t, exec (.push .tx 0x41) (tx16 .txt 15 0) = .next t) ∧ usedNow (tx16 .txt 15 0) .tx < 16 ∧
    (∃ t, exec (.push .tx 0x41) (tx16 .txt 16 0) = .next t) ∧ 16 ≤ usedNow (tx16 .txt 16 0) .tx ∧
    (∃ t, exec (.pop .tx) { tx16 .isr 6 5 with storage := ⟨[], [(5, 0x5A)]⟩ } = .next t) ∧
    (∃ t, exec (.pop .tx) (tx16 .isr 6 6) = .next t) ∧ usedNow (tx16 .isr 6 6) .tx = 0 :=
  ⟨completes_next _ (by decide), by decide, completes_next _ (by decide), by decide,
    completes_next _ (by decide), completes_next _ (by decide), by decide⟩

theorem witness_PolicyFrame :
    (∃ t, exec (.snap .tx) (tx16 .txt 4 0) = .next t) ∧ (∃ t, exec .fcTxt (tx16 .txt 4 0) = .next t) ∧
    (∃ t, exec .fcRxt (rx16 .rxt 4 0) = .next t) ∧ (∃ t, exec .fcTxi parkedWriter = .next t) ∧
    (∃ t, exec .fcRxi (rx16 .isr 16 0) = .next t) ∧
    (∃ t, exec .errChk { at16 .isr with dev := ⟨[], [], [], [], [], [⟨true, true⟩]⟩ } = .next t) ∧
    (∃ t, exec .setup (at16 .host) = .next t) ∧ (∃ t, exec .tarm (at16 .isr) = .next t) ∧
    (∃ t, exec .tstop (at16 .isr) = .next t) := by
  refine ⟨?_, ?_, ?_, ?_, ?_, ?_, ?_, ?_, ?_⟩ <;> exact completes_next _ (by decide)

theorem witness_WakeFrame :
    (∃ t, exec (.raise .tx) parkedWriter = .next t) ∧ (∃ t, exec (.wreset .tx) (at16 .host) = .next t) ∧
    (∃ t, exec (.wait .rx) (at16 .rxt) = .next t) ∧ (∃ t, exec .tfire (at16 .tmr) = .next t) := by
  refine ⟨?_, ?_, ?_, ?_⟩ <;> exact completes_next _ (by decide)

theorem witness_HandlerFrame :
    (∃ t, exec .rxBurst { rx16 .isr 15 0 with dev := ⟨[], [], [], [some 0x77], [], []⟩ } = .next t) ∧
    (∃ t, exec .txBurst
      { tx16 .isr 1 0 with storage := ⟨[], [(0, 0x30)]⟩, dev := ⟨[], [], [], [], [true], []⟩ } = .next t) ∧
    (∃ t, exec .isr
      { at16 .isr with
        dev := ⟨[true, false], [true], [false], [some 0x61, none], [], [⟨false, true⟩]⟩ } = .next t) := by
  refine ⟨?_, ?_, ?_⟩ <;> exact completes_next _ (by decide)

theorem witness_ThreadCallFrame :
    (∃ t, exec (.wrnb 2) { at16 .txt with payload := [0x01, 0x02] } = .next t) ∧
    (∃ t, exec (.write 2) { tx16 .txt 15 0 with payload := [0x01, 0x02] } = .next t) ∧
    (∃ t, exec (.rdnb 2) { rx16 .rxt 1 0 with storage := ⟨[(0, 0x30)], []⟩ } = .next t) ∧
    (∃ t, exec (.read 2) (at16 .rxt) = .next t) := by
  refine ⟨?_, ?_, ?_, ?_⟩ <;> exact completes_next _ (by decide)

theorem witness_ConstructFrame :
    (∃ t, exec (.construct .tx 4) { at16 .host with cap := ⟨16, 0⟩, tmr := .armed } = .next t) ∧
    (∃ t, exec (.construct .rx 3) State.reset = .next t) :=
  ⟨completes_next _ (by decide), completes_next _ (by decide)⟩

theorem witness_SingleWriterPerElement :
    (∃ t, exec (.push .tx 0x41) (tx16 .txt 16 0) = .next t) ∧
    (∃ t, exec (.construct .rx 4) { State.reset with tmr := .armed } = .next t) ∧
    (ringInv inHandler = true ∧ inHandler.run.get .isr = .busy ∧ ∃ t, agentEvent .isr inHandler = .next t) ∧
    runsFrom .host (.construct1 .rx 4) [] = true :=
  ⟨completes_next _ (by decide), completes_next _ (by decide),
    ⟨by decide, by decide, completes_next _ (by decide)⟩, by decide⟩

/-- A violation recorded before; one recorded by the step; a halted agent in a legal state. -/
theorem witness_ViolationIsSticky :
    (haltedWriter.fault = some ⟨.pushFull, .tx, .txt⟩ ∧ ringInv haltedWriter = true ∧
      haltedWriter.run.get .txt = .halted) ∧
    (∀ ts, haltedWriter.sched ≠ .powerOn :: ts) ∧ (∃ t, step haltedWriter = .next t) ∧
    (∀ ts, inViolation.sched ≠ .powerOn :: ts) ∧ inViolation.fault = none ∧
    ∃ t, step inViolation = .next t ∧ t.fault = some ⟨.pushFull, .tx, .txt⟩ :=
  ⟨by decide, ne_powerOn _ (by decide), completes_next _ (by decide), ne_powerOn _ (by decide), rfl, _, rfl, rfl⟩

theorem witness_StepKeepsCapacityModeAndStorageForm :
    (∃ t, step inWrnb = .next t) ∧ inWrnb.cap.get .tx ≠ 0 ∧ (∀ ts, inWrnb.sched ≠ .powerOn :: ts) ∧
    Memory.wf (inWrnb.storage.get .tx) :=
  ⟨completes_next _ (by decide), by decide, ne_powerOn _ (by decide), Memory.wf_nil⟩

theorem witness_RingInvariantKept :
    (ringInv inWrnb = true ∧ ∃ t, step inWrnb = .next t) ∧
    (ringInv { inHandler with mode := .parallel } = true ∧
      ∃ t, step { inHandler with mode := .parallel, sched := [.event .isr] } = .next t) :=
  ⟨⟨by decide, completes_next _ (by decide)⟩, by decide, completes_next _ (by decide)⟩

theorem witness_NoViolationInsideComposite :
    ringInv inViolation = true ∧ inViolation.run.get .txt = .busy ∧
    ∃ t, agentEvent .txt inViolation = .next t ∧ t.run.get .txt = .halted :=
  ⟨by decide, by decide, _, rfl, rfl⟩

theorem witness_HandlerNeverWaits :
    (ringInv inHandler = true ∧ inHandler.run.get .isr = .busy) ∧
    ((at16 .isr).issuer = .isr ∧ ready .isr (at16 .isr)) := by decide

/-- Both ends of the range. -/
theorem witness_FlowInvariantAfterSetup :
    capLegal 2 = true ∧ (2 : Index) ≠ 0 ∧ capLegal 16384 = true ∧ (16384 : Index) ≠ 0 := by decide

theorem witness_FlowInvariantKept :
    (flowInv inWrnb = true ∧ ∃ t, step inWrnb = .next t) ∧ (flowInv inHandler = true ∧ ∃ t, step inHandler = .next t) :=
  ⟨⟨by decide, completes_next _ (by decide)⟩, by decide, completes_next _ (by decide)⟩

/-- Data in the TX ring and room in the RX ring, no burst open. -/
theorem witness_FlowInvariantGivesEnables :
    ∃ s : State, flowInv s = true ∧ inTxBurst s = false ∧ 0 < usedNow s .tx ∧ inRxBurst s = false ∧
      usedNow s .rx < s.cap.rx.toNat :=
  ⟨{ tx16 .host 3 0 with rxie := true, txie := true }, by decide, by decide, by decide, by decide, by decide⟩

end Sys2Proof.Tests
end

section
/-! SUPPORT. Slots and counters: why the two ends of a ring that is neither full nor empty never meet in one
slot (00_scope.md R10, 20_memory.md R60). -/

namespace Sys2Proof.Machine

/-- A value that passes the test of 44_wake_timer_lifecycle.md R250 is a power of two: otherwise its leading
bit is set in its predecessor too. -/
theorem powerOfTwo_toNat (c : Index) (h : powerOfTwo c = true) : ∃ k, c.toNat = 2 ^ k := by
  simp only [powerOfTwo, Bool.and_eq_true, bne_iff_ne, ne_eq, beq_iff_eq] at h
  obtain ⟨hc, hand⟩ := h
  have hpos : c.toNat ≠ 0 := fun h0 => hc (BitVec.eq_of_toNat_eq (by simpa using h0))
  have hpred : (c - 1).toNat = c.toNat - 1 := by bv_omega
  refine ⟨Nat.log2 c.toNat, Classical.byContradiction fun hne => ?_⟩
  have hle := Nat.log2_self_le hpos
  have hlt : c.toNat < 2 ^ (Nat.log2 c.toNat + 1) := Nat.lt_log2_self
  have hbit := Nat.testBit_of_two_pow_le_and_two_pow_add_one_gt hle hlt
  have hbit' : (c.toNat - 1).testBit (Nat.log2 c.toNat) = true :=
    Nat.testBit_of_two_pow_le_and_two_pow_add_one_gt (by omega) (by omega)
  have hzero : c.toNat &&& (c.toNat - 1) = 0 := by
    rw [← hpred, ← BitVec.toNat_and, hand]; rfl
  have := congrArg (Nat.testBit · (Nat.log2 c.toNat)) hzero
  simp [hbit, hbit'] at this

/-- With a power of two for a capacity the mask is the remainder (00_scope.md R10). -/
theorem slotOf_eq_mod (i c : Index) (k : Nat) (h : c.toNat = 2 ^ k) : slotOf i c = i.toNat % c.toNat := by
  have hpos : 0 < 2 ^ k := Nat.two_pow_pos k
  have hpred : (maskOf c).toNat = c.toNat - 1 := by unfold maskOf; bv_omega
  rw [slotOf, BitVec.toNat_and, hpred, h, Nat.and_two_pow_sub_one_eq_mod]

/-- In a ring that is neither empty nor full the next slot to write is not the next slot to read: the counters
are less than a capacity apart, and the capacity divides `2^16`. -/
theorem slotOf_ne (w r c : Index) (hc : powerOfTwo c = true) (hpos : emptyAt w r = false)
    (hlt : fullAt w r c = false) : slotOf w c ≠ slotOf r c := by
  obtain ⟨k, hk⟩ := powerOfTwo_toNat c hc
  rw [slotOf_eq_mod w c k hk, slotOf_eq_mod r c k hk]
  have hw : (w - r).toNat ≠ 0 := fun h0 => by
    have : w = r := by bv_omega
    simp [(emptyAt_iff w r).2 this] at hpos
  have hf : (w - r).toNat < c.toNat := by
    by_contra hge
    simp [(fullAt_iff w r c).2 (by omega)] at hlt
  intro heq
  have hk16 : k ≤ 16 := by
    by_contra hgt
    have h1 : 2 ^ 16 < 2 ^ k := Nat.pow_lt_pow_right (by omega) (by omega)
    have := c.isLt
    omega
  have hdvd : c.toNat ∣ 2 ^ 16 := hk ▸ Nat.pow_dvd_pow 2 hk16
  have hmod : (w - r).toNat ≡ 0 [MOD c.toNat] := by
    have h1 : (r + (w - r)).toNat = w.toNat := by congr 1; bv_omega
    rw [BitVec.toNat_add] at h1
    have h2 : r.toNat + (w - r).toNat ≡ w.toNat [MOD c.toNat] := by
      rw [← h1]
      exact (Nat.ModEq.of_dvd hdvd (Nat.mod_modEq _ _)).symm
    have h3 : w.toNat ≡ r.toNat + 0 [MOD c.toNat] := heq
    exact Nat.ModEq.add_left_cancel' _ (h2.trans h3)
  have := Nat.le_of_dvd (by omega) (Nat.modEq_zero_iff_dvd.1 hmod)
  omega

end Sys2Proof.Machine
end

section
/-! SUPPORT. One agent's writes: every write of the block with the agent that makes it and its condition, and
that each is one the table of rights gives that agent (60_exceptions.md R296). -/

namespace Sys2Proof.Machine

/-- `t` differs from `s` in the fields of the environment only: the elements S1 to S13, the operations in
progress and the mode are equal. -/
structure SameBlock (s t : State) : Prop where
  cap : t.cap = s.cap
  storage : t.storage = s.storage
  widx : t.widx = s.widx
  ridx : t.ridx = s.ridx
  wake : t.wake = s.wake
  tmr : t.tmr = s.tmr
  rxie : t.rxie = s.rxie
  txie : t.txie = s.txie
  ovrCnt : t.ovrCnt = s.ovrCnt
  frmCnt : t.frmCnt = s.frmCnt
  fault : t.fault = s.fault
  run : t.run = s.run
  snap : t.snap = s.snap
  seq : t.seq = s.seq
  mode : t.mode = s.mode

theorem SameBlock.refl (s : State) : SameBlock s s := by constructor <;> rfl

theorem SameBlock.trans {s m t : State} (h : SameBlock s m) (k : SameBlock m t) : SameBlock s t where
  cap := k.cap.trans h.cap
  storage := k.storage.trans h.storage
  widx := k.widx.trans h.widx
  ridx := k.ridx.trans h.ridx
  wake := k.wake.trans h.wake
  tmr := k.tmr.trans h.tmr
  rxie := k.rxie.trans h.rxie
  txie := k.txie.trans h.txie
  ovrCnt := k.ovrCnt.trans h.ovrCnt
  frmCnt := k.frmCnt.trans h.frmCnt
  fault := k.fault.trans h.fault
  run := k.run.trans h.run
  snap := k.snap.trans h.snap
  seq := k.seq.trans h.seq
  mode := k.mode.trans h.mode

theorem SameBlock.respond (s : State) (a : Agent) (r : Reply) : SameBlock s (s.respond a r) := by
  constructor <;> rfl

theorem SameBlock.takeBytes (s : State) (len : Nat) : SameBlock s (s.takeBytes len).2 := by
  constructor <;> rfl

theorem SameBlock.devPoll {s t : State} {p : Bool} (h : s.devPoll = (p, t)) : SameBlock s t := by
  obtain rfl : s.devPoll.2 = t := by rw [h]
  constructor <;> simp

theorem SameBlock.devRxReady {s t : State} {p : Bool} (h : s.devRxReady = (p, t)) : SameBlock s t := by
  obtain rfl : s.devRxReady.2 = t := by rw [h]
  constructor <;> simp

theorem SameBlock.devTxReady {s t : State} {p : Bool} (h : s.devTxReady = (p, t)) : SameBlock s t := by
  obtain rfl : s.devTxReady.2 = t := by rw [h]
  constructor <;> simp

theorem SameBlock.devRead {s t : State} {x : Option Byte} (h : s.devRead = (x, t)) : SameBlock s t := by
  obtain rfl : s.devRead.2 = t := by rw [h]
  constructor <;> simp

theorem SameBlock.devWrite {s t : State} {b : Byte} {p : Bool} (h : s.devWrite b = (p, t)) : SameBlock s t := by
  obtain rfl : (s.devWrite b).2 = t := by rw [h]
  constructor <;> simp

theorem SameBlock.devErrors {s t : State} {e : ErrorFlags} (h : s.devErrors = (e, t)) : SameBlock s t := by
  obtain rfl : s.devErrors.2 = t := by rw [h]
  constructor <;> simp

/-- One write that agent `a` may perform in state `s`: the rows of 60_exceptions.md R296 with the condition
under which the operation rules make each write. Whole operations and events are runs of these
(`meaning_endsWell`, `posEvent_ok`). -/
inductive Change (a : Agent) (s : State) : State → Prop
  | env {t : State} (h : SameBlock s t) : Change a s t
  | store (ch : Chan) (b : Byte) (ha : a = producerOf ch) (hroom : isFullNow s ch = false) :
      Change a s (s.memWrite ch (slotOf (s.widx.get ch) (s.cap.get ch)) b)
  | publish (ch : Chan) (ha : a = producerOf ch) (hroom : isFullNow s ch = false) :
      Change a s (s.setWidx ch (inc16 (s.widx.get ch)))
  | consume (ch : Chan) (ha : a = consumerOf ch) (hdata : isEmptyNow s ch = false) :
      Change a s (s.setRidx ch (inc16 (s.ridx.get ch)))
  | latchW (ch : Chan) (ha : a = threadOf ch) : Change a s (s.latchW ch)
  | latchR (ch : Chan) (ha : a = threadOf ch) : Change a s (s.latchR ch)
  | enableTx (ha : a = .txt) : Change a s s.enableTx
  | disableTx (ha : a = .isr) : Change a s s.disableTx
  | enableRx (ha : a = .rxt ∨ a = .host) : Change a s s.enableRx
  | disableRx (ha : a = .isr) : Change a s s.disableRx
  | armTimer (ha : a = .isr) : Change a s s.armTimer
  | stopTimer (ha : a = .isr) : Change a s s.stopTimer
  | expireTimer (ha : a = .tmr) : Change a s { s with tmr := .idle }
  | raiseWake (ch : Chan) (ha : a = .isr ∨ (a = .tmr ∧ ch = .rx)) : Change a s (s.raiseWake ch)
  | takeWake (ch : Chan) (ha : a = threadOf ch) (hw : s.wake.get ch = .raised) : Change a s (s.setWake ch .idle)
  | resetWake (ch : Chan) (ha : a = .host) : Change a s (s.resetWake ch)
  | countOverrun (ha : a = .isr) : Change a s s.countOverrun
  | countFraming (ha : a = .isr) : Change a s s.countFraming
  | construct (ch : Chan) (capv : Index) (ha : a = .host) (hc : s.cap.get ch = 0)
      (hp : powerOfTwo capv = true) (hr : capInRange capv = true) : Change a s (s.constructChan ch capv)

/-- A run of writes of one agent. -/
abbrev Runs (a : Agent) : State → State → Prop := Relation.ReflTransGen (Change a)

theorem threadOf_ne_isr (ch : Chan) : threadOf ch ≠ .isr := by cases ch <;> decide
theorem threadOf_ne_tmr (ch : Chan) : threadOf ch ≠ .tmr := by cases ch <;> decide
theorem threadOf_inj {c d : Chan} (h : threadOf c = threadOf d) : c = d := by
  cases c <;> cases d <;> first | rfl | cases h

theorem resetWake_cases (s : State) (ch : Chan) :
    (s.wake.get ch = .raised ∧ s.resetWake ch = s.setWake ch .idle) ∨ s.resetWake ch = s := by
  unfold State.resetWake
  cases h : s.wake.get ch <;> simp

/-- What no write of agent `a` touches: `FAULT`, the operations in progress, the mode and its own status. -/
structure OwnKept (a : Agent) (s t : State) : Prop where
  fault : t.fault = s.fault
  seq : t.seq = s.seq
  mode : t.mode = s.mode
  run : t.run.get a = s.run.get a

theorem OwnKept.refl (a : Agent) (s : State) : OwnKept a s s := by constructor <;> rfl

theorem OwnKept.trans {a : Agent} {s m t : State} (h : OwnKept a s m) (k : OwnKept a m t) : OwnKept a s t where
  fault := k.fault.trans h.fault
  seq := k.seq.trans h.seq
  mode := k.mode.trans h.mode
  run := k.run.trans h.run

/-- The one write that changes a status is a raise, and the agents that raise are no waiters. -/
theorem Change.ownKept {a : Agent} {s t : State} (h : Change a s t) : OwnKept a s t := by
  cases h with
  | env h => exact ⟨h.fault, h.seq, h.mode, by rw [h.run]⟩
  | raiseWake ch ha =>
    refine ⟨by simp, by simp, by simp, ?_⟩
    rcases raiseWake_run s ch a with h | ⟨h, -, -⟩
    · exact h
    · rcases ha with ha | ⟨ha, -⟩
      · exact absurd (h.symm.trans ha) (threadOf_ne_isr ch)
      · exact absurd (h.symm.trans ha) (threadOf_ne_tmr ch)
  | _ => constructor <;> simp

theorem Runs.ownKept {a : Agent} {s t : State} (h : Runs a s t) : OwnKept a s t := by
  induction h with
  | refl => exact .refl a s
  | tail _ h ih => exact ih.trans h.ownKept

/-- `writesAllowed` without its clause on `FAULT`, and with one more on who parks: in this form the rights of
two runs one after the other compose (`Rights.trans`). -/
structure Rights (a : Agent) (s t : State) : Prop where
  cap : ∀ ch, t.cap.get ch ≠ s.cap.get ch → a = .host ∧ s.cap.get ch = 0
  producer : ∀ ch, t.widx.get ch ≠ s.widx.get ch ∨ t.storage.get ch ≠ s.storage.get ch →
    a = producerOf ch ∨ (a = .host ∧ s.cap.get ch = 0)
  consumer : ∀ ch, t.ridx.get ch ≠ s.ridx.get ch → a = consumerOf ch ∨ (a = .host ∧ s.cap.get ch = 0)
  latches : ∀ ch, t.snap.get ch ≠ s.snap.get ch → a = threadOf ch ∨ (a = .host ∧ s.cap.get ch = 0)
  txieOn : s.txie = false → t.txie = true → a = .txt
  txieOff : s.txie = true → t.txie = false → a = .isr
  rxieOn : s.rxie = false → t.rxie = true → a = .rxt ∨ a = .host
  rxieOff : s.rxie = true → t.rxie = false → a = .isr
  wake : ∀ ch, t.wake.get ch ≠ s.wake.get ch →
    a = .isr ∨ (a = .tmr ∧ ch = .rx) ∨ a = threadOf ch ∨ (a = .host ∧ t.wake.get ch = .idle)
  tmrOn : s.tmr = .idle → t.tmr = .armed → a = .isr
  tmrOff : s.tmr = .armed → t.tmr = .idle → a = .isr ∨ a = .tmr ∨ (a = .host ∧ s.cap.rx = 0)
  counts : t.ovrCnt ≠ s.ovrCnt ∨ t.frmCnt ≠ s.frmCnt → a = .isr
  run : ∀ b, b ≠ a → t.run.get b ≠ s.run.get b →
    t.run.get b = .busy ∧ ∃ ch, b = threadOf ch ∧ s.wake.get ch = .parked
  seq : ∀ b, b ≠ a → t.seq.get b = s.seq.get b
  parks : ∀ ch, t.wake.get ch = .parked → s.wake.get ch = .parked ∨ a = threadOf ch

theorem SameBlock.rights {s t : State} (a : Agent) (h : SameBlock s t) : Rights a s t := by
  obtain ⟨hcap, hst, hw, hr, hwk, htm, hrx, htx, ho, hf, -, hrun, hsn, hsq, -⟩ := h
  constructor <;> simp_all

theorem Rights.refl (a : Agent) (s : State) : Rights a s s := (SameBlock.refl s).rights a

/-- A write of the second run that the first had not made is judged by the state the first run left, whose
capacities are 0 only where they were 0 before. -/
theorem Rights.trans {a : Agent} {s m t : State} (h : Rights a s m) (k : Rights a m t) : Rights a s t := by
  have hc : ∀ ch, (a = .host ∧ m.cap.get ch = 0) → a = .host ∧ s.cap.get ch = 0 := by
    rintro ch ⟨ha, h0⟩
    by_cases heq : m.cap.get ch = s.cap.get ch
    · exact ⟨ha, heq ▸ h0⟩
    · exact h.cap ch heq
  constructor
  case cap =>
    intro ch hne
    by_cases heq : m.cap.get ch = s.cap.get ch
    · exact hc ch (k.cap ch (heq ▸ hne))
    · exact h.cap ch heq
  case producer =>
    intro ch hne
    by_cases hm : m.widx.get ch ≠ s.widx.get ch ∨ m.storage.get ch ≠ s.storage.get ch
    · exact h.producer ch hm
    · obtain ⟨hw, hs⟩ := not_or.1 hm
      rw [← not_ne_iff.1 hw, ← not_ne_iff.1 hs] at hne
      exact (k.producer ch hne).imp_right (hc ch)
  case consumer =>
    intro ch hne
    by_cases heq : m.ridx.get ch = s.ridx.get ch
    · exact (k.consumer ch (heq ▸ hne)).imp_right (hc ch)
    · exact h.consumer ch heq
  case latches =>
    intro ch hne
    by_cases heq : m.snap.get ch = s.snap.get ch
    · exact (k.latches ch (heq ▸ hne)).imp_right (hc ch)
    · exact h.latches ch heq
  case txieOn =>
    intro h0 h1
    cases hm : m.txie
    · exact k.txieOn hm h1
    · exact h.txieOn h0 hm
  case txieOff =>
    intro h0 h1
    cases hm : m.txie
    · exact h.txieOff h0 hm
    · exact k.txieOff hm h1
  case rxieOn =>
    intro h0 h1
    cases hm : m.rxie
    · exact k.rxieOn hm h1
    · exact h.rxieOn h0 hm
  case rxieOff =>
    intro h0 h1
    cases hm : m.rxie
    · exact h.rxieOff h0 hm
    · exact k.rxieOff hm h1
  case wake =>
    intro ch hne
    by_cases heq : t.wake.get ch = m.wake.get ch
    · rw [heq] at hne ⊢
      exact h.wake ch hne
    · exact k.wake ch heq
  case tmrOn =>
    intro h0 h1
    cases hm : m.tmr
    · exact k.tmrOn hm h1
    · exact h.tmrOn h0 hm
  case tmrOff =>
    intro h0 h1
    cases hm : m.tmr
    · exact h.tmrOff h0 hm
    · exact (k.tmrOff hm h1).imp_right (Or.imp_right (hc .rx))
  case counts =>
    intro hne
    by_cases hm : m.ovrCnt ≠ s.ovrCnt ∨ m.frmCnt ≠ s.frmCnt
    · exact h.counts hm
    · obtain ⟨ho, hf⟩ := not_or.1 hm
      rw [← not_ne_iff.1 ho, ← not_ne_iff.1 hf] at hne
      exact k.counts hne
  case run =>
    intro b hb hne
    by_cases heq : t.run.get b = m.run.get b
    · rw [heq] at hne ⊢
      exact h.run b hb hne
    · obtain ⟨hbusy, ch, hth, hpk⟩ := k.run b hb heq
      rcases h.parks ch hpk with hp | ha
      · exact ⟨hbusy, ch, hth, hp⟩
      · exact absurd (hth.trans ha.symm) hb
  case seq => exact fun b hb => (k.seq b hb).trans (h.seq b hb)
  case parks =>
    intro ch hp
    exact (k.parks ch hp).elim (h.parks ch) .inr

/-- A channel other than the one set reads as before. -/
theorem PerChan.get_of_set_ne {α : Type} {p : PerChan α} {c d : Chan} {v : α}
    (h : (p.set c v).get d ≠ p.get d) :
    d = c :=
  Classical.byContradiction fun hd => h (PerChan.get_set_ne p c d v hd)

theorem PerAgent.get_of_set_ne {α : Type} {p : PerAgent α} {a b : Agent} {v : α}
    (h : (p.set a v).get b ≠ p.get b) :
    b = a :=
  Classical.byContradiction fun hb => h (PerAgent.get_set_ne p a b v hb)

theorem Rights.setWake {a : Agent} (s : State) (ch : Chan) (v : Wake)
    (hw : a = .isr ∨ (a = .tmr ∧ ch = .rx) ∨ a = threadOf ch ∨ (a = .host ∧ v = .idle))
    (hp : v = .parked → a = threadOf ch) : Rights a s (s.setWake ch v) :=
  { Rights.refl a s with
    wake := fun d hd => by
      obtain rfl := PerChan.get_of_set_ne hd
      simpa using hw
    parks := fun d hd => by
      rw [State.setWake_wake, PerChan.get_set] at hd
      split at hd
      · next h => exact .inr (h ▸ hp hd)
      · exact .inl hd }

theorem Rights.raiseWake {a : Agent} (s : State) (ch : Chan) (ha : a = .isr ∨ (a = .tmr ∧ ch = .rx)) :
    Rights a s (s.raiseWake ch) := by
  rcases raiseWake_cases s ch with ⟨-, h⟩ | ⟨-, h⟩ | ⟨hpk, h⟩ <;> rw [h]
  · exact Rights.setWake s ch .raised (ha.imp_right .inl) (by simp)
  · exact Rights.refl a s
  · exact { Rights.setWake s ch .idle (ha.imp_right .inl) (by simp) with
      run := fun b _ hne => by
        obtain rfl := PerAgent.get_of_set_ne (p := s.run) hne
        exact ⟨by simp, ch, rfl, hpk⟩ }

theorem Rights.construct (s : State) (ch : Chan) (capv : Index) (hc : s.cap.get ch = 0) :
    Rights .host s (s.constructChan ch capv) :=
  { Rights.refl .host s with
    cap := fun d hd => ⟨rfl, PerChan.get_of_set_ne hd ▸ hc⟩
    producer := fun d hd => .inr ⟨rfl, (hd.elim PerChan.get_of_set_ne PerChan.get_of_set_ne) ▸ hc⟩
    consumer := fun d hd => .inr ⟨rfl, PerChan.get_of_set_ne hd ▸ hc⟩
    latches := fun d hd => .inr ⟨rfl, PerChan.get_of_set_ne hd ▸ hc⟩
    wake := fun d hd => by
      obtain rfl := PerChan.get_of_set_ne hd
      simp
    tmrOn := fun h0 h1 => by
      rw [State.constructChan_tmr, h0, ite_self] at h1
      cases h1
    tmrOff := fun h0 h1 => by
      cases ch with
      | rx => exact .inr (.inr ⟨rfl, hc⟩)
      | tx => cases h0.symm.trans h1
    parks := fun d hd => by
      rw [State.constructChan_wake, PerChan.get_set] at hd
      split at hd
      · cases hd
      · exact .inl hd }

/-- Every write is one that the table of rights gives its agent. -/
theorem Change.rights {a : Agent} {s t : State} (h : Change a s t) : Rights a s t := by
  cases h with
  | env h => exact h.rights a
  | store ch b ha =>
    exact { Rights.refl a s with
      producer := fun d hd => .inl (hd.elim (absurd rfl) PerChan.get_of_set_ne ▸ ha) }
  | publish ch ha =>
    exact { Rights.refl a s with
      producer := fun d hd => .inl (hd.elim PerChan.get_of_set_ne (absurd rfl) ▸ ha) }
  | consume ch ha =>
    exact { Rights.refl a s with consumer := fun d hd => .inl (PerChan.get_of_set_ne hd ▸ ha) }
  | latchW ch ha | latchR ch ha =>
    exact { Rights.refl a s with latches := fun d hd => .inl (PerChan.get_of_set_ne hd ▸ ha) }
  | enableTx ha => exact { Rights.refl a s with txieOn := fun _ _ => ha, txieOff := nofun }
  | disableTx ha => exact { Rights.refl a s with txieOff := fun _ _ => ha, txieOn := nofun }
  | enableRx ha => exact { Rights.refl a s with rxieOn := fun _ _ => ha, rxieOff := nofun }
  | disableRx ha => exact { Rights.refl a s with rxieOff := fun _ _ => ha, rxieOn := nofun }
  | armTimer ha =>
    rcases armTimer_cases s with ⟨-, h⟩ | ⟨-, h⟩ <;> rw [h]
    · exact Rights.refl a s
    · exact { Rights.refl a s with tmrOn := fun _ _ => ha, tmrOff := nofun }
  | stopTimer ha =>
    rcases stopTimer_cases s with ⟨-, h⟩ | ⟨-, h⟩ <;> rw [h]
    · exact Rights.refl a s
    · exact { Rights.refl a s with tmrOff := fun _ _ => .inl ha, tmrOn := nofun }
  | expireTimer ha => exact { Rights.refl a s with tmrOff := fun _ _ => .inr (.inl ha), tmrOn := nofun }
  | raiseWake ch ha => exact Rights.raiseWake s ch ha
  | takeWake ch ha => exact Rights.setWake s ch .idle (.inr (.inr (.inl ha))) nofun
  | resetWake ch ha =>
    rcases resetWake_cases s ch with ⟨-, h⟩ | h <;> rw [h]
    · exact Rights.setWake s ch .idle (.inr (.inr (.inr ⟨ha, rfl⟩))) nofun
    · exact Rights.refl a s
  | countOverrun ha | countFraming ha => exact { Rights.refl a s with counts := fun _ => ha }
  | construct ch capv ha hc => exact ha ▸ Rights.construct s ch capv hc

theorem Runs.rights {a : Agent} {s t : State} (h : Runs a s t) : Rights a s t := by
  induction h with
  | refl => exact Rights.refl a s
  | tail _ h ih => exact ih.trans h.rights

end Sys2Proof.Machine
end

section
/-! SUPPORT. What a write keeps of the rings and of the wake signals, and what every other agent may still
rely on after it (10_state.md R24, R33, 20_memory.md R68). -/

namespace Sys2Proof.Machine

/-- The part of `chanOk` that is about the ring and its storage. -/
structure RingOk (s : State) (ch : Chan) : Prop where
  legal : capLegal (s.cap.get ch) = true
  used : usedNow s ch ≤ (s.cap.get ch).toNat
  form : Memory.wf (s.storage.get ch)
  inside : ∀ c ∈ s.storage.get ch, c.1 < (s.cap.get ch).toNat

/-- The part of `chanOk` that is about the wake signal and its waiter. -/
structure WakeOk (s : State) (ch : Chan) : Prop where
  parked : s.wake.get ch = .parked ↔ s.run.get (threadOf ch) = .parked
  constructed : s.cap.get ch = 0 → s.wake.get ch ≠ .parked

theorem chanOk_iff (s : State) (ch : Chan) : chanOk s ch = true ↔ RingOk s ch ∧ WakeOk s ch := by
  constructor
  · intro h
    simp only [chanOk, ringOk, Bool.and_eq_true, decide_eq_true_eq, List.all_eq_true, Bool.or_eq_true,
      bne_iff_ne, beq_iff_eq] at h
    obtain ⟨⟨⟨⟨⟨hl, hu⟩, hf⟩, hi⟩, hp⟩, hc⟩ := h
    refine ⟨⟨hl, hu, hf, hi⟩, ⟨?_, fun h0 => hc.resolve_left (absurd h0)⟩⟩
    simpa using congrArg (· = true) hp
  · rintro ⟨⟨hl, hu, hf, hi⟩, ⟨hp, hc⟩⟩
    simp only [chanOk, ringOk, Bool.and_eq_true, decide_eq_true_eq, List.all_eq_true, Bool.or_eq_true,
      bne_iff_ne, beq_iff_eq]
    have hparked : ((s.wake.get ch == .parked) = (s.run.get (threadOf ch) == .parked)) :=
      Bool.eq_iff_iff.2 (by simpa using hp)
    exact ⟨⟨⟨⟨⟨hl, hu⟩, hf⟩, hi⟩, hparked⟩, or_iff_not_imp_left.2 fun h => hc (not_ne_iff.1 h)⟩

theorem ringInv_iff (s : State) :
    ringInv s = true ↔ (∀ ch, RingOk s ch) ∧ (∀ ch, WakeOk s ch) ∧ ∀ a, agentOk s a = true := by
  have hch : (chanOk s .rx = true ∧ chanOk s .tx = true) ↔ (∀ ch, RingOk s ch) ∧ (∀ ch, WakeOk s ch) := by
    rw [chanOk_iff, chanOk_iff]
    constructor
    · rintro ⟨⟨hr, hw⟩, hr', hw'⟩
      exact ⟨fun ch => by cases ch <;> assumption, fun ch => by cases ch <;> assumption⟩
    · rintro ⟨hr, hw⟩
      exact ⟨⟨hr _, hw _⟩, hr _, hw _⟩
  have hag : agents.all (agentOk s) = true ↔ ∀ a, agentOk s a = true := by
    rw [List.all_eq_true]
    exact ⟨fun h a => h a (by cases a <;> decide), fun h a _ => h a⟩
  rw [ringInv, Bool.and_eq_true, Bool.and_eq_true, hch, hag, and_assoc]

theorem permitted_iff (s : State) (a : Agent) (i : Instr) :
    permitted s a i = true ↔ accepts a i = true ∧ ∀ ch ∈ channelsNeeded i, s.cap.get ch ≠ 0 := by
  simp [permitted, needsConstruct]

theorem isFullNow_iff (s : State) (ch : Chan) : isFullNow s ch = true ↔ (s.cap.get ch).toNat ≤ usedNow s ch :=
  fullAt_iff _ _ _

theorem isFullNow_false_iff (s : State) (ch : Chan) :
    isFullNow s ch = false ↔ usedNow s ch < (s.cap.get ch).toNat := by
  rw [← not_le, ← isFullNow_iff, Bool.not_eq_true]

theorem isEmptyNow_iff (s : State) (ch : Chan) : isEmptyNow s ch = true ↔ usedNow s ch = 0 := by
  simp only [isEmptyNow, emptyAt, usedNow, beq_iff_eq]
  exact ⟨fun h => by rw [h]; rfl, fun h => BitVec.eq_of_toNat_eq h⟩

theorem isEmptyNow_false_iff (s : State) (ch : Chan) : isEmptyNow s ch = false ↔ 0 < usedNow s ch := by
  rw [Nat.pos_iff_ne_zero, ne_eq, ← isEmptyNow_iff, Bool.not_eq_true]

namespace RingOk

variable {s : State} {ch : Chan}

theorem congr {t : State} (h : RingOk s ch) (hc : t.cap.get ch = s.cap.get ch)
    (hs : t.storage.get ch = s.storage.get ch) (hw : t.widx.get ch = s.widx.get ch)
    (hr : t.ridx.get ch = s.ridx.get ch) : RingOk t ch where
  legal := hc ▸ h.legal
  used := by
    have := h.used
    rwa [usedNow, hc, hw, hr]
  form := hs ▸ h.form
  inside := by
    rw [hs, hc]
    exact h.inside

theorem cap_le (h : RingOk s ch) : (s.cap.get ch).toNat ≤ 16384 := by
  have hl := h.legal
  simp only [capLegal, capInRange, Config.capMax, Bool.or_eq_true, beq_iff_eq, Bool.and_eq_true,
    decide_eq_true_eq] at hl
  rcases hl with h0 | ⟨-, -, hle⟩
  · rw [h0]; decide
  · exact of_decide_eq_true hle

theorem cap_powerOfTwo (h : RingOk s ch) (h0 : s.cap.get ch ≠ 0) : powerOfTwo (s.cap.get ch) = true := by
  have hl := h.legal
  simp only [capLegal, Bool.or_eq_true, beq_iff_eq, Bool.and_eq_true] at hl
  exact (hl.resolve_left h0).1

theorem constructed_of_room (h : isFullNow s ch = false) : s.cap.get ch ≠ 0 := by
  intro h0
  rw [isFullNow_false_iff, h0] at h
  exact Nat.not_lt_zero _ h

theorem usedNow_publish (h : RingOk s ch) (hroom : isFullNow s ch = false) :
    usedNow (s.setWidx ch (inc16 (s.widx.get ch))) ch = usedNow s ch + 1 := by
  have hlt := (isFullNow_false_iff s ch).1 hroom
  have hle := h.cap_le
  simp only [usedNow, State.setWidx_widx, PerChan.get_set_same, State.setWidx_ridx, usedOf_inc16_left] at *
  bv_omega

theorem usedNow_consume (hdata : isEmptyNow s ch = false) :
    usedNow (s.setRidx ch (inc16 (s.ridx.get ch))) ch = usedNow s ch - 1 := by
  have hpos := (isEmptyNow_false_iff s ch).1 hdata
  simp only [usedNow, State.setRidx_ridx, PerChan.get_set_same, State.setRidx_widx, usedOf_inc16_right] at *
  bv_omega

theorem slots_distinct (h : RingOk s ch) (hroom : isFullNow s ch = false) (hdata : isEmptyNow s ch = false) :
    slotOf (s.widx.get ch) (s.cap.get ch) ≠ slotOf (s.ridx.get ch) (s.cap.get ch) :=
  slotOf_ne _ _ _ (h.cap_powerOfTwo (constructed_of_room hroom)) hdata hroom

theorem store (h : RingOk s ch) (hroom : isFullNow s ch = false) (b : Byte) :
    RingOk (s.memWrite ch (slotOf (s.widx.get ch) (s.cap.get ch)) b) ch where
  legal := h.legal
  used := h.used
  form := wf_memWrite s ch ch _ b h.form
  inside := fun c hc => by
    rw [State.memWrite_storage, PerChan.get_set_same] at hc
    rcases Memory.mem_write _ _ _ _ hc with h1 | h1
    · exact h1 ▸ slotOf_lt _ _ (constructed_of_room hroom)
    · exact h.inside c h1

theorem publish (h : RingOk s ch) (hroom : isFullNow s ch = false) :
    RingOk (s.setWidx ch (inc16 (s.widx.get ch))) ch where
  legal := h.legal
  used := by
    rw [h.usedNow_publish hroom]
    exact (isFullNow_false_iff s ch).1 hroom
  form := h.form
  inside := h.inside

theorem consume (h : RingOk s ch) (hdata : isEmptyNow s ch = false) :
    RingOk (s.setRidx ch (inc16 (s.ridx.get ch))) ch where
  legal := h.legal
  used := by
    rw [usedNow_consume hdata]
    exact (Nat.sub_le _ _).trans h.used
  form := h.form
  inside := h.inside

theorem constructed (capv : Index) (hp : powerOfTwo capv = true) (hr : capInRange capv = true) :
    RingOk (s.constructChan ch capv) ch where
  legal := by simp [capLegal, hp, hr]
  used := by simp [usedNow, usedOf]
  form := by simp
  inside := by simp

end RingOk

/-- Every write keeps the rings: a store lies inside the array, a publish follows a test for room, a consume a
test for data (10_state.md R24). -/
theorem Change.ringOk {a : Agent} {s t : State} (h : Change a s t) (hr : ∀ ch, RingOk s ch) (d : Chan) :
    RingOk t d := by
  cases h with
  | env h => exact (hr d).congr (by rw [h.cap]) (by rw [h.storage]) (by rw [h.widx]) (by rw [h.ridx])
  | store ch b _ hroom =>
    by_cases hd : d = ch
    · exact hd ▸ (hr ch).store hroom b
    · exact (hr d).congr rfl (PerChan.get_set_ne _ _ _ _ hd) rfl rfl
  | publish ch _ hroom =>
    by_cases hd : d = ch
    · exact hd ▸ (hr ch).publish hroom
    · exact (hr d).congr rfl rfl (PerChan.get_set_ne _ _ _ _ hd) rfl
  | consume ch _ hdata =>
    by_cases hd : d = ch
    · exact hd ▸ (hr ch).consume hdata
    · exact (hr d).congr rfl rfl rfl (PerChan.get_set_ne _ _ _ _ hd)
  | construct ch capv _ _ hp hcr =>
    by_cases hd : d = ch
    · exact hd ▸ RingOk.constructed capv hp hcr
    · exact (hr d).congr (by simp [hd]) (by simp [hd]) (by simp [hd]) (by simp [hd])
  | _ => exact (hr d).congr (by simp) (by simp) (by simp) (by simp)

theorem WakeOk.congr {s t : State} {ch : Chan} (h : WakeOk s ch) (hc : t.cap.get ch = s.cap.get ch)
    (hw : t.wake.get ch = s.wake.get ch) (hr : t.run.get (threadOf ch) = s.run.get (threadOf ch)) :
    WakeOk t ch where
  parked := by rw [hw, hr]; exact h.parked
  constructed := by rw [hw, hc]; exact h.constructed

/-- Neither the signal nor its thread is parked. -/
theorem WakeOk.of_not_parked {t : State} {ch : Chan} (hw : t.wake.get ch ≠ .parked)
    (hr : t.run.get (threadOf ch) ≠ .parked) : WakeOk t ch where
  parked := iff_of_false hw hr
  constructed := fun _ => hw

theorem WakeOk.setWake {s : State} {ch : Chan} (h : WakeOk s ch) {v : Wake} (hw : s.wake.get ch ≠ .parked)
    (hv : v ≠ .parked) : WakeOk (s.setWake ch v) ch :=
  .of_not_parked (by simpa using hv) fun hr => hw (h.parked.2 hr)

theorem WakeOk.setWake_ne {s : State} {ch d : Chan} (h : WakeOk s d) (hd : d ≠ ch) (v : Wake) :
    WakeOk (s.setWake ch v) d :=
  h.congr rfl (PerChan.get_set_ne _ _ _ _ hd) rfl

theorem WakeOk.raiseWake {s : State} (h : ∀ ch, WakeOk s ch) (ch d : Chan) : WakeOk (s.raiseWake ch) d := by
  by_cases hd : d = ch
  · subst hd
    rcases raiseWake_cases s d with ⟨hw, h'⟩ | ⟨-, h'⟩ | ⟨-, h'⟩ <;> rw [h']
    · exact (h d).setWake (by simp [hw]) (by simp)
    · exact h d
    · exact .of_not_parked (by simp) (by simp)
  · rcases raiseWake_cases s ch with ⟨-, h'⟩ | ⟨-, h'⟩ | ⟨-, h'⟩ <;> rw [h']
    · exact (h d).setWake_ne hd _
    · exact h d
    · exact (h d).congr rfl (by simp [hd]) (PerAgent.get_set_ne _ _ _ _ fun he => hd (threadOf_inj he))

/-- Every write keeps PARKED threads at PARKED signals: a raise takes both away together
(44_wake_timer_lifecycle.md R241). -/
theorem Change.wakeOk {a : Agent} {s t : State} (h : Change a s t) (hw : ∀ ch, WakeOk s ch) (d : Chan) :
    WakeOk t d := by
  cases h with
  | env h => exact (hw d).congr (by rw [h.cap]) (by rw [h.wake]) (by rw [h.run])
  | raiseWake ch => exact WakeOk.raiseWake hw ch d
  | takeWake ch _ hr =>
    by_cases hd : d = ch
    · exact hd ▸ (hw ch).setWake (by simp [hr]) (by simp)
    · exact (hw d).setWake_ne hd _
  | resetWake ch =>
    rcases resetWake_cases s ch with ⟨hr, h⟩ | h <;> rw [h]
    · by_cases hd : d = ch
      · exact hd ▸ (hw ch).setWake (by simp [hr]) (by simp)
      · exact (hw d).setWake_ne hd _
    · exact hw d
  | construct ch capv _ hc =>
    by_cases hd : d = ch
    · subst hd
      exact .of_not_parked (by simp) fun hr => (hw d).constructed hc ((hw d).parked.2 hr)
    · exact (hw d).congr (by simp [hd]) (by simp [hd]) rfl
  | _ => exact (hw d).congr (by simp) (by simp) (by simp)

/-- What the producer of a channel holds of it across another agent's write. -/
structure ProducerView (s t : State) (ch : Chan) : Prop where
  widx : t.widx.get ch = s.widx.get ch
  room : isFullNow s ch = false → isFullNow t ch = false
  slot : isFullNow s ch = false →
    t.memRead ch (slotOf (s.widx.get ch) (s.cap.get ch)) = s.memRead ch (slotOf (s.widx.get ch) (s.cap.get ch))

/-- What the consumer of a channel holds of it across another agent's write. -/
structure ConsumerView (s t : State) (ch : Chan) : Prop where
  ridx : t.ridx.get ch = s.ridx.get ch
  used : usedNow s ch ≤ usedNow t ch
  slot : isEmptyNow s ch = false →
    t.memRead ch (slotOf (s.ridx.get ch) (s.cap.get ch)) = s.memRead ch (slotOf (s.ridx.get ch) (s.cap.get ch))

theorem ConsumerView.data {s t : State} {ch : Chan} (h : ConsumerView s t ch) (hd : isEmptyNow s ch = false) :
    isEmptyNow t ch = false := by
  rw [isEmptyNow_false_iff] at *
  exact hd.trans_le h.used

/-- What agent `b` may rely on while another agent moves: its constructed channels keep their capacity, and
what it has tested or loaded as producer or consumer stays true (20_memory.md R68). -/
structure View (b : Agent) (s t : State) : Prop where
  cap : ∀ ch, s.cap.get ch ≠ 0 → t.cap.get ch = s.cap.get ch
  producer : ∀ ch, b = producerOf ch → s.cap.get ch ≠ 0 → ProducerView s t ch
  consumer : ∀ ch, b = consumerOf ch → s.cap.get ch ≠ 0 → ConsumerView s t ch

theorem ProducerView.of_same {s t : State} {ch : Chan} (hc : t.cap.get ch = s.cap.get ch)
    (hs : t.storage.get ch = s.storage.get ch)
    (hw : t.widx.get ch = s.widx.get ch) (hr : t.ridx.get ch = s.ridx.get ch) : ProducerView s t ch where
  widx := hw
  room := by simp only [isFullNow, hc, hw, hr, imp_self]
  slot := fun _ => memRead_congr s t ch _ hs

theorem ConsumerView.of_same {s t : State} {ch : Chan} (hs : t.storage.get ch = s.storage.get ch)
    (hw : t.widx.get ch = s.widx.get ch) (hr : t.ridx.get ch = s.ridx.get ch) : ConsumerView s t ch where
  ridx := hr
  used := by simp only [usedNow, hw, hr, le_refl]
  slot := fun _ => memRead_congr s t ch _ hs

theorem View.of_same {s t : State} (b : Agent) (hc : t.cap = s.cap) (hs : t.storage = s.storage)
    (hw : t.widx = s.widx)
    (hr : t.ridx = s.ridx) : View b s t where
  cap := fun _ _ => by rw [hc]
  producer := fun _ _ _ => .of_same (by rw [hc]) (by rw [hs]) (by rw [hw]) (by rw [hr])
  consumer := fun _ _ _ => .of_same (by rw [hs]) (by rw [hw]) (by rw [hr])

/-- The byte about to be published lies in no slot that the consumer is about to read. -/
theorem View.store {b : Agent} {s : State} {ch : Chan} (h : RingOk s ch) (hb : b ≠ producerOf ch)
    (hroom : isFullNow s ch = false)
    (x : Byte) : View b s (s.memWrite ch (slotOf (s.widx.get ch) (s.cap.get ch)) x) where
  cap := fun _ _ => rfl
  producer := fun d hd _ => by
    have hne : d ≠ ch := fun he => hb (he ▸ hd)
    exact .of_same rfl (PerChan.get_set_ne _ _ _ _ hne) rfl rfl
  consumer := fun d _ _ =>
    { ridx := rfl
      used := le_refl _
      slot := fun hdata => memRead_memWrite_other _ _ _ _ _ _ fun he => by
        obtain ⟨rfl, hslot⟩ := Prod.mk.inj he
        exact h.slots_distinct hroom hdata hslot.symm }

theorem View.publish {b : Agent} {s : State} {ch : Chan} (h : RingOk s ch) (hb : b ≠ producerOf ch)
    (hroom : isFullNow s ch = false) : View b s (s.setWidx ch (inc16 (s.widx.get ch))) where
  cap := fun _ _ => rfl
  producer := fun d hd _ => by
    have hne : d ≠ ch := fun he => hb (he ▸ hd)
    exact .of_same rfl rfl (PerChan.get_set_ne _ _ _ _ hne) rfl
  consumer := fun d _ _ => by
    by_cases hd : d = ch
    · subst hd
      exact { ridx := rfl, used := by rw [h.usedNow_publish hroom]; omega, slot := fun _ => rfl }
    · exact .of_same rfl (PerChan.get_set_ne _ _ _ _ hd) rfl

theorem View.consume {b : Agent} {s : State} {ch : Chan} (hb : b ≠ consumerOf ch)
    (hdata : isEmptyNow s ch = false) : View b s (s.setRidx ch (inc16 (s.ridx.get ch))) where
  cap := fun _ _ => rfl
  producer := fun d _ _ => by
    by_cases hd : d = ch
    · subst hd
      refine { widx := rfl, room := fun hroom => ?_, slot := fun _ => rfl }
      rw [isFullNow_false_iff] at *
      rw [RingOk.usedNow_consume hdata]
      exact (Nat.sub_le _ _).trans_lt hroom
    · exact .of_same rfl rfl rfl (PerChan.get_set_ne _ _ _ _ hd)
  consumer := fun d hd _ => by
    have hne : d ≠ ch := fun he => hb (he ▸ hd)
    exact .of_same rfl rfl (PerChan.get_set_ne _ _ _ _ hne)

theorem View.construct {s : State} {ch : Chan} (b : Agent) (hc : s.cap.get ch = 0) (capv : Index) :
    View b s (s.constructChan ch capv) := by
  have hne : ∀ d, s.cap.get d ≠ 0 → d ≠ ch := fun d hd he => hd (he ▸ hc)
  constructor
  case cap => exact fun d hd => PerChan.get_set_ne _ _ _ _ (hne d hd)
  case producer =>
    exact fun d _ hd =>
      .of_same (by simp [hne d hd]) (by simp [hne d hd]) (by simp [hne d hd]) (by simp [hne d hd])
  case consumer => exact fun d _ hd => .of_same (by simp [hne d hd]) (by simp [hne d hd]) (by simp [hne d hd])

/-- A write of one agent leaves the view of every other. -/
theorem Change.view {a b : Agent} {s t : State} (h : Change a s t) (hr : ∀ ch, RingOk s ch) (hb : b ≠ a) :
    View b s t := by
  cases h with
  | env h => exact .of_same b h.cap h.storage h.widx h.ridx
  | store ch x ha hroom => exact .store (hr ch) (ha ▸ hb) hroom x
  | publish ch ha hroom => exact .publish (hr ch) (ha ▸ hb) hroom
  | consume ch ha hdata => exact .consume (ha ▸ hb) hdata
  | construct ch capv _ hc => exact .construct b hc capv
  | _ => exact .of_same b (by simp) (by simp) (by simp) (by simp)

end Sys2Proof.Machine
end

section
/-! SUPPORT. Operations in progress: what a position claims, the chain of composites around it, and that both
survive the writes of other agents. -/

namespace Sys2Proof.Machine

/-! ### Ports -/

theorem accepts_push (a : Agent) (ch : Chan) (b : Byte) : accepts a (.push ch b) = true ↔
    a = producerOf ch := by
  cases a <;> cases ch <;> simp [accepts, producerOf]

theorem accepts_pop (a : Agent) (ch : Chan) : accepts a (.pop ch) = true ↔ a = consumerOf ch := by
  cases a <;> cases ch <;> simp [accepts, consumerOf]

theorem accepts_peek (a : Agent) (ch : Chan) : accepts a (.peek ch) = true ↔ a = consumerOf ch := by
  cases a <;> cases ch <;> simp [accepts, consumerOf]

theorem accepts_snap (a : Agent) (ch : Chan) : accepts a (.snap ch) = true ↔ a = threadOf ch := by
  cases a <;> cases ch <;> simp [accepts, threadOf]

theorem accepts_wait (a : Agent) (ch : Chan) : accepts a (.wait ch) = true ↔ a = threadOf ch := by
  cases a <;> cases ch <;> simp [accepts, threadOf]

/-- Inside a composite `ISFULL` is asked by the producer and `ISEMPTY` by the consumer: only they rely on the
answer. -/
def queriesOwn (b : Agent) : Instr → Prop
  | .isFull ch => b = producerOf ch
  | .isEmpty ch => b = consumerOf ch
  | _ => True

theorem queriesOwn_calledOp {b : Agent} {c : Caller} (h : accepts b (callerOp c) = true) : queriesOwn b
    (calledOp c) := by
  cases c <;> simp_all [accepts, callerOp, calledOp, queriesOwn, producerOf, consumerOf]

/-! ### What each position claims -/

section PosOk

variable (s : State) (inside : Bool) (ch : Chan) (b : Byte) (v : Index)

@[simp] theorem posOk_push1 : posOk s inside (.push1 ch b) = true ↔
    (inside = true → isFullNow s ch = false) := by
  cases inside <;> simp [posOk]

@[simp] theorem posOk_push2 : posOk s inside (.push2 ch b v) = true ↔
    v = s.widx.get ch ∧ (inside = true → isFullNow s ch = false) := by
  cases inside <;> simp [posOk]

@[simp] theorem posOk_push4 : posOk s inside (.push4 ch b v) = true ↔
    v = s.widx.get ch ∧ isFullNow s ch = false := by
  simp [posOk]

@[simp] theorem posOk_push5 : posOk s inside (.push5 ch b v) = true ↔
    v = s.widx.get ch ∧ isFullNow s ch = false ∧ b = s.memRead ch (slotOf v (s.cap.get ch)) := by
  simp [posOk, and_assoc]

@[simp] theorem posOk_pop1 : posOk s inside (.pop1 ch) = true ↔ (inside = true → isEmptyNow s ch = false) := by
  cases inside <;> simp [posOk]

@[simp] theorem posOk_pop2 : posOk s inside (.pop2 ch v) = true ↔
    v = s.ridx.get ch ∧ (inside = true → isEmptyNow s ch = false) := by
  cases inside <;> simp [posOk]

@[simp] theorem posOk_pop4 : posOk s inside (.pop4 ch v) = true ↔
    v = s.ridx.get ch ∧ isEmptyNow s ch = false := by
  simp [posOk]

@[simp] theorem posOk_pop5 : posOk s inside (.pop5 ch v b) = true ↔
    v = s.ridx.get ch ∧ isEmptyNow s ch = false ∧ b = s.memRead ch (slotOf v (s.cap.get ch)) := by
  simp [posOk, and_assoc]

@[simp] theorem posOk_peek1 : posOk s inside (.peek1 ch) = true ↔
    (inside = true → isEmptyNow s ch = false) := by
  cases inside <;> simp [posOk]

@[simp] theorem posOk_peek2 : posOk s inside (.peek2 ch v) = true ↔
    v = s.ridx.get ch ∧ (inside = true → isEmptyNow s ch = false) := by
  cases inside <;> simp [posOk]

@[simp] theorem posOk_peek4 : posOk s inside (.peek4 ch v) = true ↔
    v = s.ridx.get ch ∧ isEmptyNow s ch = false := by
  simp [posOk]

@[simp] theorem posOk_violate (code : ViolationCode) : posOk s inside (.violate code ch) = true ↔
    inside = false := by
  simp [posOk]

@[simp] theorem posOk_query2_full : posOk s inside (.query2 .full ch v) = true ↔
    (inside = true → v = s.widx.get ch) := by
  cases inside <;> simp [posOk]

@[simp] theorem posOk_query2_empty : posOk s inside (.query2 .empty ch v) = true ↔
    (inside = true → (usedOf v (s.ridx.get ch)).toNat ≤ usedNow s ch) := by
  cases inside <;> simp [posOk, usedNow]

@[simp] theorem posOk_rxBurst2 : posOk s inside .rxBurst2 = true ↔ isFullNow s .rx = false := by
  simp [posOk]

@[simp] theorem posOk_txBurst3 : posOk s inside (.txBurst3 b) = true ↔
    isEmptyNow s .tx = false ∧ b = s.memRead .tx (slotOf (s.ridx.get .tx) (s.cap.get .tx)) := by
  simp [posOk]

end PosOk

theorem View.producerAt {b : Agent} {s t : State} {i : Instr} (hv : View b s t) (hp : permitted s b i = true)
    {ch : Chan}
    (hb : b = producerOf ch) (hm : ch ∈ channelsNeeded i) : t.cap.get ch = s.cap.get ch ∧ ProducerView s t ch :=
  have hc := ((permitted_iff ..).1 hp).2 ch hm
  ⟨hv.cap ch hc, hv.producer ch hb hc⟩

theorem View.consumerAt {b : Agent} {s t : State} {i : Instr} (hv : View b s t) (hp : permitted s b i = true)
    {ch : Chan}
    (hb : b = consumerOf ch) (hm : ch ∈ channelsNeeded i) : t.cap.get ch = s.cap.get ch ∧ ConsumerView s t ch :=
  have hc := ((permitted_iff ..).1 hp).2 ch hm
  ⟨hv.cap ch hc, hv.consumer ch hb hc⟩

/-- What an operation in progress holds of the counters survives a write that leaves its agent's view. -/
theorem posOk_view {b : Agent} {s t : State} {inside : Bool} {p : Pos} (hv : View b s t)
    (hp : permitted s b (opOf p) = true)
    (hq : inside = true → queriesOwn b (opOf p)) (h : posOk s inside p = true) : posOk t inside p = true := by
  have hacc := ((permitted_iff ..).1 hp).1
  cases p with
  | push1 ch x =>
    obtain ⟨-, hw⟩ := hv.producerAt hp ((accepts_push ..).1 hacc) (by simp [opOf, channelsNeeded])
    simp only [posOk_push1] at h ⊢
    exact fun hi => hw.room (h hi)
  | push2 ch x w =>
    obtain ⟨-, hw⟩ := hv.producerAt hp ((accepts_push ..).1 hacc) (by simp [opOf, channelsNeeded])
    simp only [posOk_push2, hw.widx] at h ⊢
    exact ⟨h.1, fun hi => hw.room (h.2 hi)⟩
  | push4 ch x w =>
    obtain ⟨-, hw⟩ := hv.producerAt hp ((accepts_push ..).1 hacc) (by simp [opOf, channelsNeeded])
    simp only [posOk_push4, hw.widx] at h ⊢
    exact ⟨h.1, hw.room h.2⟩
  | push5 ch x w =>
    obtain ⟨hc, hw⟩ := hv.producerAt hp ((accepts_push ..).1 hacc) (by simp [opOf, channelsNeeded])
    simp only [posOk_push5, hw.widx, hc] at h ⊢
    obtain ⟨rfl, hroom, hx⟩ := h
    exact ⟨rfl, hw.room hroom, hx.trans (hw.slot hroom).symm⟩
  | pop1 ch =>
    obtain ⟨-, hw⟩ := hv.consumerAt hp ((accepts_pop ..).1 hacc) (by simp [opOf, channelsNeeded])
    simp only [posOk_pop1] at h ⊢
    exact fun hi => hw.data (h hi)
  | pop2 ch r =>
    obtain ⟨-, hw⟩ := hv.consumerAt hp ((accepts_pop ..).1 hacc) (by simp [opOf, channelsNeeded])
    simp only [posOk_pop2, hw.ridx] at h ⊢
    exact ⟨h.1, fun hi => hw.data (h.2 hi)⟩
  | pop4 ch r =>
    obtain ⟨-, hw⟩ := hv.consumerAt hp ((accepts_pop ..).1 hacc) (by simp [opOf, channelsNeeded])
    simp only [posOk_pop4, hw.ridx] at h ⊢
    exact ⟨h.1, hw.data h.2⟩
  | pop5 ch r x =>
    obtain ⟨hc, hw⟩ := hv.consumerAt hp ((accepts_pop ..).1 hacc) (by simp [opOf, channelsNeeded])
    simp only [posOk_pop5, hw.ridx, hc] at h ⊢
    obtain ⟨rfl, hdata, hx⟩ := h
    exact ⟨rfl, hw.data hdata, hx.trans (hw.slot hdata).symm⟩
  | peek1 ch =>
    obtain ⟨-, hw⟩ := hv.consumerAt hp ((accepts_peek ..).1 hacc) (by simp [opOf, channelsNeeded])
    simp only [posOk_peek1] at h ⊢
    exact fun hi => hw.data (h hi)
  | peek2 ch r =>
    obtain ⟨-, hw⟩ := hv.consumerAt hp ((accepts_peek ..).1 hacc) (by simp [opOf, channelsNeeded])
    simp only [posOk_peek2, hw.ridx] at h ⊢
    exact ⟨h.1, fun hi => hw.data (h.2 hi)⟩
  | peek4 ch r =>
    obtain ⟨-, hw⟩ := hv.consumerAt hp ((accepts_peek ..).1 hacc) (by simp [opOf, channelsNeeded])
    simp only [posOk_peek4, hw.ridx] at h ⊢
    exact ⟨h.1, hw.data h.2⟩
  | query2 q ch w =>
    cases q with
    | used => rfl
    | full =>
      simp only [posOk_query2_full] at h ⊢
      intro hi
      obtain ⟨-, hw⟩ := hv.producerAt hp (hq hi) (by simp [opOf, channelsNeeded])
      rw [hw.widx, h hi]
    | empty =>
      simp only [posOk_query2_empty] at h ⊢
      intro hi
      obtain ⟨-, hw⟩ := hv.consumerAt hp (hq hi) (by simp [opOf, channelsNeeded])
      rw [hw.ridx]
      exact (h hi).trans hw.used
  | rxBurst2 =>
    have hb : b = .isr := beq_iff_eq.1 hacc
    obtain ⟨-, hw⟩ := hv.producerAt hp (ch := .rx) hb (by simp [opOf, channelsNeeded])
    simp only [posOk_rxBurst2] at h ⊢
    exact hw.room h
  | txBurst3 x =>
    have hb : b = .isr := beq_iff_eq.1 hacc
    obtain ⟨hc, hw⟩ := hv.consumerAt hp (ch := .tx) hb (by simp [opOf, channelsNeeded])
    simp only [posOk_txBurst3, hw.ridx, hc] at h ⊢
    exact ⟨hw.data h.1, h.2.trans (hw.slot h.1).symm⟩
  | violate => exact h
  | _ => rfl

/-! ### Chains of composites -/

/-- The outermost of the composites that a part stands in. -/
def outerOp : Instr → List Caller → Instr
  | op, [] => op
  | _, c :: cs => outerOp (callerOp c) cs

theorem outerOp_append (op : Instr) (cs ds : List Caller) :
    outerOp op (cs ++ ds) = outerOp (outerOp op cs) ds := by
  induction cs generalizing op with
  | nil => rfl
  | cons c cs ih => exact ih _

theorem chained_append (op : Instr) (cs ds : List Caller) :
    chained op (cs ++ ds) = (chained op cs && chained (outerOp op cs) ds) := by
  induction cs generalizing op with
  | nil => simp [chained, outerOp]
  | cons c cs ih => simp [chained, outerOp, ih, Bool.and_assoc]

theorem permitted_view {s t : State} {a b : Agent} {i : Instr} (hv : View b s t)
    (h : permitted s a i = true) : permitted t a i = true := by
  obtain ⟨hacc, hcap⟩ := (permitted_iff ..).1 h
  exact (permitted_iff ..).2 ⟨hacc, fun ch hm => hv.cap ch (hcap ch hm) ▸ hcap ch hm⟩

theorem permitted_calledOp {s : State} {a : Agent} {c : Caller} (h : permitted s a (callerOp c) = true) :
    permitted s a (calledOp c) = true := by
  rw [permitted_iff] at *
  cases c <;> simp_all [callerOp, calledOp, accepts, channelsNeeded]

/-- A port that accepts a composite accepts its parts, so permission of the outermost is permission of all. -/
theorem permitted_chain {s : State} {a : Agent} {op : Instr} {cs : List Caller} (hch : chained op cs = true)
    (h : permitted s a (outerOp op cs) = true) :
    permitted s a op = true ∧ ∀ c ∈ cs, permitted s a (callerOp c) = true := by
  induction cs generalizing op with
  | nil => exact ⟨h, by simp⟩
  | cons c cs ih =>
    simp only [chained, Bool.and_eq_true, beq_iff_eq] at hch
    obtain ⟨hc, hcs⟩ := ih hch.2 h
    exact ⟨hch.1 ▸ permitted_calledOp hc, by simpa using ⟨hc, hcs⟩⟩

theorem permitted_outer {s : State} {a : Agent} {op : Instr} {cs : List Caller} (hop : permitted s a op = true)
    (h : ∀ c ∈ cs, permitted s a (callerOp c) = true) : permitted s a (outerOp op cs) = true := by
  induction cs generalizing op with
  | nil => exact hop
  | cons c cs ih => exact ih (h c (by simp)) fun d hd => h d (by simp [hd])

/-- An operation in progress is legal when its parts call each other, the outermost is permitted, and its
position holds what it claims. -/
theorem seqOk_iff (s : State) (a : Agent) (q : Sequencer) :
    seqOk s a q = true ↔ chained (opOf q.pos) q.callers = true ∧
      permitted s a (outerOp (opOf q.pos) q.callers) = true ∧
      posOk s (!q.callers.isEmpty) q.pos = true := by
  simp only [seqOk, Bool.and_eq_true, List.all_eq_true]
  constructor
  · rintro ⟨⟨⟨hp, hcs⟩, hch⟩, hpos⟩
    exact ⟨hch, permitted_outer hp hcs, hpos⟩
  · rintro ⟨hch, hout, hpos⟩
    obtain ⟨hp, hcs⟩ := permitted_chain hch hout
    exact ⟨⟨⟨hp, hcs⟩, hch⟩, hpos⟩

theorem seqOk_view {b : Agent} {s t : State} {q : Sequencer} (hv : View b s t) (h : seqOk s b q = true) :
    seqOk t b q = true := by
  rw [seqOk_iff] at *
  obtain ⟨hch, hout, hpos⟩ := h
  obtain ⟨hp, hcs⟩ := permitted_chain hch hout
  refine ⟨hch, permitted_view hv hout, posOk_view hv hp (fun hi => ?_) hpos⟩
  cases hq : q.callers with
  | nil => simp [hq] at hi
  | cons c cs =>
    rw [hq] at hch hcs
    simp only [chained, Bool.and_eq_true, beq_iff_eq] at hch
    rw [← hch.1]
    exact queriesOwn_calledOp ((permitted_iff ..).1 (hcs c (by simp))).1

theorem agentOk_iff (s : State) (a : Agent) : agentOk s a = true ↔
    ((s.run.get a = .idle ∨ s.run.get a = .halted) ∧ s.seq.get a = none) ∨
    (s.run.get a = .busy ∧ ∃ q, s.seq.get a = some q ∧ seqOk s a q = true) ∨
    (s.run.get a = .parked ∧ ∃ q, s.seq.get a = some q ∧ seqOk s a q = true ∧
      ∃ ch, q.pos = .wait2 ch ∧ a = threadOf ch) := by
  have hch : ∀ q : Sequencer, (∃ ch, q.pos = .wait2 ch ∧ a = threadOf ch) ↔
      (q.pos = .wait2 .rx ∧ a = .rxt) ∨ (q.pos = .wait2 .tx ∧ a = .txt) := fun q =>
    ⟨fun ⟨ch, hp, ha⟩ => by cases ch <;> simp_all [threadOf],
     fun h => h.elim (fun ⟨hp, ha⟩ => ⟨.rx, hp, ha⟩) (fun ⟨hp, ha⟩ => ⟨.tx, hp, ha⟩)⟩
  unfold agentOk
  cases hr : s.run.get a <;> cases hq : s.seq.get a <;> simp [hch]

theorem agentOk_view {b : Agent} {s t : State} (hv : View b s t) (hseq : t.seq.get b = s.seq.get b)
    (hrun : t.run.get b = s.run.get b ∨ (s.run.get b = .parked ∧ t.run.get b = .busy))
    (h : agentOk s b = true) :
    agentOk t b = true := by
  rw [agentOk_iff] at *
  rw [hseq]
  rcases h with ⟨hr, hq⟩ | ⟨hr, q, hq, hok⟩ | ⟨hr, q, hq, hok, hpos⟩
  · rcases hrun with hrun | ⟨hp, -⟩
    · exact .inl ⟨hrun ▸ hr, hq⟩
    · simp [hp] at hr
  · rcases hrun with hrun | ⟨hp, -⟩
    · exact .inr (.inl ⟨hrun.trans hr, q, hq, seqOk_view hv hok⟩)
    · simp [hp] at hr
  · rcases hrun with hrun | ⟨-, hb⟩
    · exact .inr (.inr ⟨hrun.trans hr, q, hq, seqOk_view hv hok, hpos⟩)
    · exact .inr (.inl ⟨hb, q, hq, seqOk_view hv hok⟩)

/-- The ring invariant but for what agent `a` itself is inside. -/
structure BaseOk (a : Agent) (s : State) : Prop where
  ring : ∀ ch, RingOk s ch
  wake : ∀ ch, WakeOk s ch
  others : ∀ b, b ≠ a → agentOk s b = true

theorem ringInv_iff_base (s : State) (a : Agent) : ringInv s = true ↔ BaseOk a s ∧ agentOk s a = true := by
  rw [ringInv_iff]
  constructor
  · rintro ⟨hr, hw, ha⟩
    exact ⟨⟨hr, hw, fun b _ => ha b⟩, ha a⟩
  · rintro ⟨⟨hr, hw, ho⟩, ha⟩
    exact ⟨hr, hw, fun b => if hb : b = a then hb ▸ ha else ho b hb⟩

theorem Change.base {a : Agent} {s t : State} (h : Change a s t) (hs : BaseOk a s) : BaseOk a t where
  ring := h.ringOk hs.ring
  wake := h.wakeOk hs.wake
  others := fun b hb => by
    refine agentOk_view (h.view hs.ring hb) (h.rights.seq b hb) ?_ (hs.others b hb)
    by_cases heq : t.run.get b = s.run.get b
    · exact .inl heq
    · obtain ⟨hbusy, ch, rfl, hpk⟩ := h.rights.run b hb heq
      exact .inr ⟨(hs.wake ch).parked.1 hpk, hbusy⟩

/-- Whatever agent `a` writes, the rings, the signals and the other agents stay legal, in every interleaving.
-/
theorem Runs.base {a : Agent} {s t : State} (h : Runs a s t) (hs : BaseOk a s) : BaseOk a t := by
  induction h with
  | refl => exact hs
  | tail _ h ih => exact h.base ih

theorem Runs.cap_kept {a : Agent} {s t : State} (h : Runs a s t) (ch : Chan) (hc : s.cap.get ch ≠ 0) :
    t.cap.get ch = s.cap.get ch :=
  Classical.byContradiction fun hne => hc (h.rights.cap ch hne).2

theorem Runs.permitted_kept {a b : Agent} {s t : State} (h : Runs a s t) {i : Instr}
    (hp : permitted s b i = true) : permitted t b i = true := by
  obtain ⟨hacc, hcap⟩ := (permitted_iff ..).1 hp
  exact (permitted_iff ..).2 ⟨hacc, fun ch hm => h.cap_kept ch (hcap ch hm) ▸ hcap ch hm⟩

end Sys2Proof.Machine
end

section
/-! SUPPORT. What an agent leaves when its operation or its event is over. -/

namespace Sys2Proof.Machine

/-! ### What every step keeps -/

/-- What no step but power-on reset changes: a set capacity, the mode, the canonical form of the storage. -/
structure Keeps (s t : State) : Prop where
  cap : ∀ ch, s.cap.get ch ≠ 0 → t.cap.get ch = s.cap.get ch
  mode : t.mode = s.mode
  form : ∀ ch, Memory.wf (s.storage.get ch) → Memory.wf (t.storage.get ch)

theorem Keeps.of_same {s t : State} (hc : t.cap = s.cap) (hm : t.mode = s.mode) (hs : t.storage = s.storage) :
    Keeps s t where
  cap := fun _ _ => by rw [hc]
  mode := hm
  form := fun _ h => hs ▸ h

theorem Keeps.refl (s : State) : Keeps s s := .of_same rfl rfl rfl

theorem Keeps.trans {s m t : State} (h : Keeps s m) (k : Keeps m t) : Keeps s t where
  cap := fun ch hc => (k.cap ch (h.cap ch hc ▸ hc)).trans (h.cap ch hc)
  mode := k.mode.trans h.mode
  form := fun ch hw => k.form ch (h.form ch hw)

theorem SameBlock.keeps {s t : State} (h : SameBlock s t) : Keeps s t := .of_same h.cap h.mode h.storage

theorem Keeps.memWrite (s : State) (ch : Chan) (i : Nat) (b : Byte) : Keeps s (s.memWrite ch i b) where
  cap := fun _ _ => rfl
  mode := rfl
  form := fun d hd => wf_memWrite s ch d i b hd

theorem Keeps.constructChan (s : State) (ch : Chan) (capv : Index) (hc : s.cap.get ch = 0) :
    Keeps s (s.constructChan ch capv) where
  cap := fun _ hd => PerChan.get_set_ne _ _ _ _ fun he => hd (he ▸ hc)
  mode := rfl
  form := fun d hd => wf_constructChan s ch d capv hd

theorem Change.keeps {a : Agent} {s t : State} (h : Change a s t) : Keeps s t := by
  cases h with
  | env h => exact h.keeps
  | store ch b => exact .memWrite s ch _ b
  | construct ch capv _ hc => exact .constructChan s ch capv hc
  | _ => exact .of_same (by simp) (by simp) (by simp)

theorem Runs.keeps {a : Agent} {s t : State} (h : Runs a s t) : Keeps s t := by
  induction h with
  | refl => exact .refl s
  | tail _ h ih => exact ih.trans h.keeps

/-- A recorded violation stays, and one newly recorded names a halted agent (10_state.md R32, 60_exceptions.md
R283). -/
structure FaultKept (s t : State) : Prop where
  kept : ∀ v, s.fault = some v → t.fault = some v
  halts : ∀ v, s.fault = none → t.fault = some v → t.run.get v.agent = .halted

theorem FaultKept.of_same {s t : State} (h : t.fault = s.fault) : FaultKept s t where
  kept := fun v hv => h.trans hv
  halts := fun v h0 hv => by rw [h, h0] at hv; cases hv

/-! ### An agent's own entries -/

/-- Agent `a` sets its own status and operation in progress and answers. -/
def State.own (s : State) (a : Agent) (v : Run) (q : Option Sequencer) (rs : List Response) : State :=
  { s with run := s.run.set a v, seq := s.seq.set a q, responses := rs }

theorem State.respond_eq_own (s : State) (a : Agent) (r : Reply) :
    s.respond a r = s.own a (s.run.get a) (s.seq.get a) (s.respond a r).responses := by
  simp only [State.own, PerAgent.set_get]
  rfl

theorem State.setSeq_eq_own {s : State} {a : Agent} {v : Run} (h : s.run.get a = v) (q : Option Sequencer) :
    s.setSeq a q = s.own a v q s.responses := by
  rw [State.own, ← h, PerAgent.set_get]
  rfl

theorem Rights.own {a : Agent} (s : State) (v : Run) (q : Option Sequencer) (rs : List Response) :
    Rights a s (s.own a v q rs) :=
  { Rights.refl a s with
    run := fun _ hb hne => absurd (PerAgent.get_of_set_ne hne) hb
    seq := fun _ hb => PerAgent.get_set_ne _ _ _ _ hb }

theorem Rights.violation {a : Agent} (s : State) (code : ViolationCode) (ch : Chan) :
    Rights a s (s.violation a code ch) :=
  { Rights.refl a s with run := fun _ hb hne => absurd (PerAgent.get_of_set_ne hne) hb }

/-- What an agent can leave when its operation or its event is over: a run of writes, then a change of its own
entries, a violation that halts it, or the parking of the thread at its signal. -/
inductive Ends (a : Agent) (s : State) : State → Prop
  | own {m : State} (v : Run) (q : Option Sequencer) (rs : List Response) (h : Runs a s m) (hv : v ≠ .parked) :
      Ends a s (m.own a v q rs)
  | halt {m : State} (code : ViolationCode) (ch : Chan) (q : Option Sequencer) (rs : List Response)
      (h : Runs a s m) :
      Ends a s ((m.violation a code ch).own a .halted q rs)
  | park {m : State} (ch : Chan) (q : Option Sequencer) (rs : List Response) (h : Runs a s m)
      (ha : a = threadOf ch)
      (hc : m.cap.get ch ≠ 0) : Ends a s ((m.setWake ch .parked).own a .parked q rs)

theorem Ends.rights {a : Agent} {s t : State} (h : Ends a s t) : Rights a s t := by
  cases h with
  | own v q rs h => exact h.rights.trans (.own ..)
  | halt code ch q rs h => exact h.rights.trans (.trans (.violation ..) (.own ..))
  | park ch q rs h ha =>
    exact h.rights.trans (.trans (.setWake _ ch .parked (.inr (.inr (.inl ha))) fun _ => ha) (.own ..))

theorem Ends.keeps {a : Agent} {s t : State} (h : Ends a s t) : Keeps s t := by
  cases h with
  | own v q rs h | halt code ch q rs h | park ch q rs h => exact h.keeps.trans (.of_same rfl rfl rfl)

theorem violation_faultKept (s : State) (a : Agent) (code : ViolationCode) (ch : Chan) {t : State}
    (hf : t.fault = (s.violation a code ch).fault) (hr : t.run.get a = .halted) : FaultKept s t := by
  rw [State.violation_fault] at hf
  constructor
  case kept => exact fun v hv => by rw [hf, hv]
  case halts =>
    intro v h0 hv
    rw [hf, h0] at hv
    cases hv
    exact hr

theorem Ends.faultKept {a : Agent} {s t : State} (h : Ends a s t) : FaultKept s t := by
  cases h with
  | own v q rs h | park ch q rs h => exact .of_same h.ownKept.fault
  | @halt m code ch q rs h =>
    refine violation_faultKept s a code ch (t := (m.violation a code ch).own a .halted q rs) ?_
      (PerAgent.get_set_same ..)
    have hf : (m.violation a code ch).fault = (s.violation a code ch).fault := by
      rw [State.violation_fault, State.violation_fault, h.ownKept.fault]
    exact hf

theorem Ends.fault_or_halted {a : Agent} {s t : State} (h : Ends a s t) :
    t.fault = s.fault ∨ t.run.get a = .halted := by
  cases h with
  | own v q rs h | park ch q rs h => exact .inl h.ownKept.fault
  | halt code ch q rs h => exact .inr (PerAgent.get_set_same ..)

theorem Rights.writesAllowed {a : Agent} {s t : State} (h : Rights a s t)
    (hf : t.fault = s.fault ∨ t.run.get a = .halted) : writesAllowed a s t :=
  ⟨h.cap, h.producer, h.consumer, h.latches, h.txieOn, h.txieOff, h.rxieOn, h.rxieOff, h.wake, h.tmrOn, h.tmrOff,
    h.counts, hf.resolve_left, h.run, h.seq⟩

/-- Agent `a` changes its own status, operation and signal only. -/
theorem BaseOk.congr {a : Agent} {m t : State} (h : BaseOk a m)
    (hv : t.cap = m.cap ∧ t.storage = m.storage ∧ t.widx = m.widx ∧ t.ridx = m.ridx)
    (hw : ∀ ch, WakeOk t ch) (hrun : ∀ b, b ≠ a → t.run.get b = m.run.get b)
    (hseq : ∀ b, b ≠ a → t.seq.get b = m.seq.get b) : BaseOk a t := by
  obtain ⟨hcap, hsto, hwid, hrid⟩ := hv
  constructor
  case ring => exact fun ch => (h.ring ch).congr (by rw [hcap]) (by rw [hsto]) (by rw [hwid]) (by rw [hrid])
  case wake => exact hw
  case others =>
    exact fun b hb => agentOk_view (.of_same b hcap hsto hwid hrid) (hseq b hb) (.inl (hrun b hb)) (h.others b hb)

theorem WakeOk.own {a : Agent} {m : State} {ch : Chan} (h : WakeOk m ch) (hm : m.run.get a ≠ .parked)
    {v : Run} (hv : v ≠ .parked)
    (q : Option Sequencer) (rs : List Response) : WakeOk (m.own a v q rs) ch := by
  by_cases ha : threadOf ch = a
  · exact .of_not_parked (fun hw => hm (ha ▸ h.parked.1 hw)) (by simpa [State.own, ha] using hv)
  · exact h.congr rfl rfl (PerAgent.get_set_ne _ _ _ _ ha)

theorem BaseOk.own {a : Agent} {m : State} (h : BaseOk a m) (hm : m.run.get a ≠ .parked) {v : Run}
    (hv : v ≠ .parked)
    (q : Option Sequencer) (rs : List Response) : BaseOk a (m.own a v q rs) :=
  h.congr ⟨rfl, rfl, rfl, rfl⟩ (fun ch => (h.wake ch).own hm hv q rs) (fun _ hb => PerAgent.get_set_ne _ _ _ _ hb)
    fun _ hb => PerAgent.get_set_ne _ _ _ _ hb

theorem BaseOk.violation {a : Agent} {m : State} (h : BaseOk a m) (hm : m.run.get a ≠ .parked)
    (code : ViolationCode) (ch : Chan) :
    BaseOk a (m.violation a code ch) :=
  h.congr ⟨rfl, rfl, rfl, rfl⟩
    (fun d => ((h.wake d).own hm (v := .halted) (by simp) (m.seq.get a) m.responses).congr rfl rfl rfl)
    (fun _ hb => PerAgent.get_set_ne _ _ _ _ hb) fun _ _ => rfl

theorem BaseOk.park {a : Agent} {m : State} (h : BaseOk a m) {ch : Chan} (ha : a = threadOf ch)
    (hc : m.cap.get ch ≠ 0)
    (q : Option Sequencer) (rs : List Response) : BaseOk a ((m.setWake ch .parked).own a .parked q rs) := by
  refine h.congr ⟨rfl, rfl, rfl, rfl⟩ (fun d => ?_) (fun _ hb => PerAgent.get_set_ne _ _ _ _ hb)
    fun _ hb => PerAgent.get_set_ne _ _ _ _ hb
  by_cases hd : d = ch
  · subst hd
    exact { parked := by simp [State.own, ← ha], constructed := fun h0 => absurd h0 hc }
  · refine (h.wake d).congr rfl (PerChan.get_set_ne _ _ _ _ hd) (PerAgent.get_set_ne _ _ _ _ fun he => hd ?_)
    exact threadOf_inj (he.trans ha)

/-- An agent that ends so leaves everything but its own operation legal. -/
theorem Ends.base {a : Agent} {s t : State} (h : Ends a s t) (hs : BaseOk a s) (hp : s.run.get a ≠ .parked) :
    BaseOk a t := by
  cases h with
  | own v q rs h hv => exact (h.base hs).own (h.ownKept.run ▸ hp) hv q rs
  | halt code ch q rs h =>
    have hm := (h.base hs).violation (h.ownKept.run ▸ hp) code ch
    exact hm.own (by simp) (by simp) q rs
  | park ch q rs h ha hc => exact (h.base hs).park ha hc q rs

/-! ### What the moving agent itself is left inside -/

theorem seqOk_of_outer {a : Agent} {s : State} {p : Pos} {cs : List Caller} (hch : chained (opOf p) cs = true)
    (hp : permitted s a (outerOp (opOf p) cs) = true) (hpos : posOk s (!cs.isEmpty) p = true) :
    seqOk s a ⟨p, cs⟩ = true :=
  (seqOk_iff ..).2 ⟨hch, hp, hpos⟩

/-- An agent at a `WAIT.2` is the thread of a constructed channel. -/
theorem seqOk_wait2 {a : Agent} {s : State} {ch : Chan} {cs : List Caller}
    (hq : seqOk s a ⟨.wait2 ch, cs⟩ = true) :
    a = threadOf ch ∧ s.cap.get ch ≠ 0 := by
  obtain ⟨hch, hout, -⟩ := (seqOk_iff ..).1 hq
  obtain ⟨hacc, hcap⟩ := (permitted_iff ..).1 (permitted_chain hch hout).1
  exact ⟨(accepts_wait ..).1 hacc, hcap ch (by simp [opOf, channelsNeeded])⟩

theorem agentOk_busy {a : Agent} {m : State} {q : Sequencer} (hq : seqOk m a q = true) (rs : List Response) :
    agentOk (m.own a .busy (some q) rs) a = true :=
  (agentOk_iff ..).2 (.inr (.inl ⟨PerAgent.get_set_same .., q, PerAgent.get_set_same ..,
    seqOk_view (.of_same a rfl rfl rfl rfl) hq⟩))

theorem agentOk_free {a : Agent} {m : State} {v : Run} (hv : v = .idle ∨ v = .halted) (rs : List Response) :
    agentOk (m.own a v none rs) a = true := by
  refine (agentOk_iff ..).2 (.inl ⟨?_, PerAgent.get_set_same ..⟩)
  rwa [show (m.own a v none rs).run.get a = v from PerAgent.get_set_same ..]

theorem agentOk_waiting {a : Agent} {m : State} {ch : Chan} {cs : List Caller}
    (hq : seqOk m a ⟨.wait2 ch, cs⟩ = true)
    (rs : List Response) : agentOk ((m.setWake ch .parked).own a .parked (some ⟨.wait2 ch, cs⟩) rs) a = true :=
  (agentOk_iff ..).2 (.inr (.inr ⟨PerAgent.get_set_same .., _, PerAgent.get_set_same ..,
    seqOk_view (.of_same a rfl rfl rfl rfl) hq, ch, rfl, (seqOk_wait2 hq).1⟩))

end Sys2Proof.Machine
end

section
/-! SUPPORT. Whole operations (`exec`): each is a run of its agent's writes with one of a few endings. -/

namespace Sys2Proof.Machine

/-- The ways in which an operation run by itself (`Result`) can end, each reached by a run of writes of its
agent. -/
inductive EndsWell (a : Agent) (s : State) : Result → Prop
  | reply {t : State} (r : Reply) (h : Runs a s t) : EndsWell a s (.reply t r)
  | violated {m : State} (code : ViolationCode) (ch : Chan) (r : Reply) (h : Runs a s m) :
      EndsWell a s (.violated (m.violation a code ch) r)
  | busy {t : State} (p : Pos) (cs : List Caller) (h : Runs a s t) (hq : seqOk t a ⟨p, cs⟩ = true) :
      EndsWell a s (.inProgress t .busy p cs)
  | parked {m : State} (ch : Chan) (cs : List Caller) (h : Runs a s m) (hq : seqOk m a ⟨.wait2 ch, cs⟩ = true) :
      EndsWell a s (.inProgress (m.setWake ch .parked) .parked (.wait2 ch) cs)
  | stuck (f : Fault) : EndsWell a s (.stuck f)

theorem EndsWell.after {a : Agent} {s m : State} (hm : Runs a s m) {x : Result} (h : EndsWell a m x) :
    EndsWell a s x := by
  cases h with
  | reply r h => exact .reply r (hm.trans h)
  | violated code ch r h => exact .violated code ch r (hm.trans h)
  | busy p cs h hq => exact .busy p cs (hm.trans h) hq
  | parked ch cs h hq => exact .parked ch cs (hm.trans h) hq
  | stuck f => exact .stuck f

theorem EndsWell.andThen {a : Agent} {s : State} {x : Result} {f : State → Reply → Result} (h : EndsWell a s x)
    (hf : ∀ t r, Runs a s t → EndsWell a t (f t r)) : EndsWell a s (x.andThen f) := by
  cases h with
  | reply r h => exact (hf _ r h).after h
  | violated code ch r h => exact .violated code ch r h
  | busy p cs h hq => exact .busy p cs h hq
  | parked ch cs h hq => exact .parked ch cs h hq
  | stuck f => exact .stuck f

theorem EndsWell.same {a : Agent} (s : State) (r : Reply) : EndsWell a s (.reply s r) := .reply r .refl

theorem EndsWell.change {a : Agent} {s t : State} (h : Change a s t) (r : Reply) : EndsWell a s (.reply t r) :=
  .reply r (.single h)

theorem EndsWell.env {a : Agent} {s t : State} (h : SameBlock s t) {x : Result} (hx : EndsWell a t x) :
    EndsWell a s x :=
  hx.after (.single (.env h))

section

variable {a : Agent} {s : State}

theorem Change.ite {c : Prop} {_ : Decidable c} {t : State} (h : Change a s t) : Runs a s
    (if c then t else s) := by
  split
  · exact .single h
  · exact .refl

theorem pushOp_endsWell {ch : Chan} (ha : a = producerOf ch) (b : Byte) : EndsWell a s (pushOp ch b a s) := by
  cases hf : isFullNow s ch
  · rw [pushOp_of_room ch b a s hf]
    exact .reply _ ((Relation.ReflTransGen.single (.store ch b ha hf)).tail (.publish ch ha hf))
  · rw [pushOp_of_full ch b a s hf]
    exact .violated _ ch _ .refl

theorem popOp_endsWell {ch : Chan} (ha : a = consumerOf ch) : EndsWell a s (popOp ch a s) := by
  cases he : isEmptyNow s ch
  · rw [popOp_of_data ch a s he]
    exact .change (.consume ch ha he) _
  · rw [popOp_of_empty ch a s he]
    exact .violated _ ch _ .refl

theorem peekOp_endsWell (ch : Chan) : EndsWell a s (peekOp ch a s) := by
  cases he : isEmptyNow s ch
  · rw [peekOp_of_data ch a s he]
    exact .same s _
  · rw [peekOp_of_empty ch a s he]
    exact .violated _ ch _ .refl

theorem queryOp_endsWell (q : Query) (ch : Chan) : EndsWell a s (queryOp q ch s) := .same s _

theorem snapOp_endsWell {ch : Chan} (ha : a = threadOf ch) : EndsWell a s (snapOp ch s) :=
  .reply _ ((Relation.ReflTransGen.single (.latchW ch ha)).tail (.latchR ch ha))

theorem fcTxtOp_endsWell (ha : a = .txt) : EndsWell a s (fcTxtOp s) := .reply _ (Change.enableTx ha).ite

theorem fcRxtOp_endsWell (ha : a = .rxt) : EndsWell a s (fcRxtOp s) := .reply _ (Change.enableRx (.inl ha)).ite

theorem fcTxiOp_endsWell (ha : a = .isr) : EndsWell a s (fcTxiOp s) :=
  .reply _ ((Change.disableTx ha).ite.trans (Change.raiseWake .tx (.inl ha)).ite)

theorem fcRxiOp_endsWell (ha : a = .isr) : EndsWell a s (fcRxiOp s) := by
  have hdis : Runs a s
      (if rxIsrDisable (s.widx.get .rx) (s.ridx.get .rx) (s.cap.get .rx) then s.disableRx else s) :=
    (Change.disableRx ha).ite
  refine .reply _ ?_
  split
  · exact (hdis.tail (.stopTimer ha)).tail (.raiseWake .rx (.inl ha))
  · exact hdis.trans (Change.armTimer ha).ite

theorem errChkOp_endsWell (ha : a = .isr) : EndsWell a s (errChkOp s) :=
  .reply _ ((Relation.ReflTransGen.single (.env (.devErrors rfl))).trans
    ((Change.countOverrun ha).ite.trans (Change.countFraming ha).ite))

theorem waitOp_endsWell {ch : Chan} {cs : List Caller} (hq : seqOk s a ⟨.wait2 ch, cs⟩ = true) :
    EndsWell a s (waitOp ch cs s) := by
  unfold waitOp
  split
  · next hw => exact .change (.takeWake ch (seqOk_wait2 hq).1 hw) _
  · exact .parked ch cs .refl hq
  · exact .stuck _

theorem fireTimer_runs (ha : a = .tmr) : Runs a s s.fireTimer :=
  (Relation.ReflTransGen.single (.expireTimer ha)).tail (.raiseWake .rx (.inr ⟨ha, rfl⟩))

theorem constructOp_endsWell (ha : a = .host) (ch : Chan) (capv : Index) :
    EndsWell a s (constructOp ch capv s) := by
  unfold constructOp
  split
  · exact .same s _
  · next hc =>
    split
    · exact .same s _
    · next hp =>
      split
      · exact .same s _
      · next hr =>
        exact .change (.construct ch capv ha (not_ne_iff.1 hc) (Bool.eq_true_of_not_eq_false hp)
          (Bool.eq_true_of_not_eq_false hr)) _

end

/-! ### Thread calls and bursts -/

section

variable {a : Agent}

theorem wrnbLoop_endsWell (ha : a = .txt) (bs : List Byte) (n : Nat) (s : State) :
    EndsWell a s (wrnbLoop a bs n s) := by
  induction bs generalizing n s with
  | nil => exact .same s _
  | cons b bs ih =>
    refine (queryOp_endsWell .full .tx).andThen fun t f _ => ?_
    split
    · exact .same t _
    · exact (pushOp_endsWell ha b).andThen fun u _ _ => ih (n + 1) u

theorem wrnbOp_endsWell (ha : a = .txt) (bytes : List Byte) (s : State) : EndsWell a s (wrnbOp bytes a s) :=
  (snapOp_endsWell ha).andThen fun t _ _ => (wrnbLoop_endsWell ha bytes 0 t).andThen fun _ _ _ =>
    (fcTxtOp_endsWell ha).andThen fun u _ _ => .same u _

theorem writeLoop_endsWell (ha : a = .txt) (len fuel : Nat) (rest : List Byte) (s : State)
    (hp : permitted s a (.write 0) = true) :
    EndsWell a s (writeLoop a len fuel rest s) := by
  induction fuel generalizing rest s with
  | zero => exact .busy _ _ .refl (seqOk_of_outer rfl hp rfl)
  | succ fuel ih =>
    refine (wrnbOp_endsWell ha rest s).andThen fun t res hst => ?_
    have hpt := hst.permitted_kept hp
    split
    · exact (waitOp_endsWell (seqOk_of_outer rfl hpt rfl)).andThen fun u _ htu =>
        ih rest u (htu.permitted_kept hpt)
    · split
      · exact .same t _
      · exact ih _ t hpt

theorem writeOp_endsWell (ha : a = .txt) (len : Nat) (bytes : List Byte) (s : State)
    (hp : permitted s a (.write 0) = true) :
    EndsWell a s (writeOp len bytes a s) := by
  unfold writeOp
  split
  · exact .same s _
  · exact writeLoop_endsWell ha len 3 bytes s hp

theorem rdnbLoop_endsWell (ha : a = .rxt) (more : Nat) (buf : List Byte) (s : State) :
    EndsWell a s (rdnbLoop a more buf s) := by
  induction more generalizing buf s with
  | zero => exact .same s _
  | succ more ih =>
    refine (queryOp_endsWell .empty .rx).andThen fun t e _ => ?_
    split
    · exact .same t _
    · exact (popOp_endsWell ha).andThen fun u b _ => ih _ u

theorem rdnbOp_endsWell (ha : a = .rxt) (len : Nat) (s : State) : EndsWell a s (rdnbOp len a s) :=
  (snapOp_endsWell ha).andThen fun t _ _ => (rdnbLoop_endsWell ha len [] t).andThen fun _ _ _ =>
    (fcRxtOp_endsWell ha).andThen fun u _ _ => .same u _

theorem readLoop_endsWell (ha : a = .rxt) (len fuel : Nat) (s : State) (hp : permitted s a (.read 0) = true) :
    EndsWell a s (readLoop a len fuel s) := by
  induction fuel generalizing s with
  | zero => exact .busy _ _ .refl (seqOk_of_outer rfl hp rfl)
  | succ fuel ih =>
    refine (rdnbOp_endsWell ha len s).andThen fun t res hst => ?_
    have hpt := hst.permitted_kept hp
    split
    · exact (waitOp_endsWell (seqOk_of_outer rfl hpt rfl)).andThen fun u _ htu => ih u (htu.permitted_kept hpt)
    · exact .same t _

theorem rxBurstLoop_endsWell (ha : a = .isr) (fuel : Nat) (s : State) :
    EndsWell a s (rxBurstLoop a fuel s) := by
  induction fuel generalizing s with
  | zero => exact .same s _
  | succ fuel ih =>
    refine (queryOp_endsWell .full .rx).andThen fun t f _ => ?_
    split
    · exact .same t _
    · split
      · next hd => exact .env (.devRead hd) (.same _ _)
      · next hd => exact .env (.devRead hd) ((pushOp_endsWell ha _).andThen fun u _ _ => ih u)

theorem rxBurstOp_endsWell (ha : a = .isr) (s : State) : EndsWell a s (rxBurstOp a s) :=
  (rxBurstLoop_endsWell ha _ s).andThen fun _ _ _ => (fcRxiOp_endsWell ha).andThen fun u _ _ => .same u _

theorem txBurstLoop_endsWell (ha : a = .isr) (fuel : Nat) (s : State) :
    EndsWell a s (txBurstLoop a fuel s) := by
  induction fuel generalizing s with
  | zero => exact .same s _
  | succ fuel ih =>
    refine (queryOp_endsWell .empty .tx).andThen fun t e _ => ?_
    split
    · exact .same t _
    · refine (peekOp_endsWell .tx).andThen fun u b _ => ?_
      split
      · next hd => exact .env (.devWrite hd) (.same _ _)
      · next hd => exact .env (.devWrite hd) ((popOp_endsWell ha).andThen fun v _ _ => ih v)

theorem txBurstOp_endsWell (ha : a = .isr) (s : State) : EndsWell a s (txBurstOp a s) :=
  (txBurstLoop_endsWell ha _ s).andThen fun _ _ _ => (fcTxiOp_endsWell ha).andThen fun u _ _ => .same u _

theorem isrIteration_endsWell (ha : a = .isr) (s : State) : EndsWell a s (isrIteration a s) := by
  refine (errChkOp_endsWell ha).andThen fun t _ _ => ?_
  rcases hrx : t.devRxReady with ⟨rr, u⟩
  refine .env (.devRxReady hrx) (EndsWell.andThen ?_ fun v _ _ => ?_)
  · split
    · exact rxBurstOp_endsWell ha u
    · exact .same u _
  · rcases htx : v.devTxReady with ⟨tr, w⟩
    refine .env (.devTxReady htx) ?_
    dsimp only
    split
    · exact txBurstOp_endsWell ha w
    · exact .same w _

theorem isrLoop_endsWell (ha : a = .isr) (fuel : Nat) (s : State) (hp : permitted s a .isr = true) :
    EndsWell a s (isrLoop a fuel s) := by
  induction fuel generalizing s with
  | zero => exact .busy _ _ .refl (seqOk_of_outer rfl hp rfl)
  | succ fuel ih =>
    unfold isrLoop
    split
    · next hd => exact .env (.devPoll hd) (.same _ _)
    · next t hd =>
      have hst : Runs a s t := .single (.env (.devPoll hd))
      have hpt := hst.permitted_kept hp
      exact ((isrIteration_endsWell ha t).andThen fun u _ htu => ih u (htu.permitted_kept hpt)).after hst

/-! ### Completion -/

theorem permitted_of_ready {i : Instr} {s : State} (h : ready i s) : permitted s s.issuer i = true := by
  obtain ⟨hacc, -, hcap⟩ := h
  simp [permitted, hacc, hcap]

/-- How an operation of an idle agent ends is something the agent can leave, and it is left inside nothing or
inside a legal operation. -/
theorem complete_ends {s t : State} {x : Result} (hx : EndsWell a s x) (hidle : s.run.get a = .idle)
    (h : complete a x = .next t) : Ends a s t ∧ (s.seq.get a = none → agentOk t a = true) := by
  cases hx with
  | @reply m r hm =>
    obtain rfl : m.respond a r = t := by simpa using h
    rw [State.respond_eq_own, hm.ownKept.run, hm.ownKept.seq, hidle]
    refine ⟨.own _ _ _ hm (by simp), fun hnone => ?_⟩
    rw [hnone]
    exact agentOk_free (.inl rfl) _
  | @violated m code ch r hm =>
    obtain rfl : (m.violation a code ch).respond a r = t := by simpa using h
    rw [State.respond_eq_own, State.violation_run, PerAgent.get_set_same, State.violation_seq, hm.ownKept.seq]
    refine ⟨.halt _ _ _ _ hm, fun hnone => ?_⟩
    rw [hnone]
    exact agentOk_free (.inr rfl) _
  | @busy m p cs hm hq =>
    obtain rfl : (m.setSeq a (some ⟨p, cs⟩)).setRun a .busy = t := by simpa [complete] using h
    exact ⟨.own .busy _ m.responses hm (by simp), fun _ => agentOk_busy hq m.responses⟩
  | @parked m ch cs hm hq =>
    obtain ⟨ha, hc⟩ := seqOk_wait2 hq
    obtain rfl : ((m.setWake ch .parked).setSeq a (some ⟨.wait2 ch, cs⟩)).setRun a .parked = t := by
      simpa [complete] using h
    exact ⟨.park ch _ m.responses hm ha hc, fun _ => agentOk_waiting hq m.responses⟩
  | stuck f => simp [complete] at h

end

/-! ### The meaning of every operation -/

/-- The operation that a port performs for each command: `exec` is `perform` of it (`exec_eq_perform`). -/
def meaning : Instr → Agent → State → Result
  | .push ch b => pushOp ch b
  | .pop ch => popOp ch
  | .peek ch => peekOp ch
  | .used ch => fun _ => queryOp .used ch
  | .isFull ch => fun _ => queryOp .full ch
  | .isEmpty ch => fun _ => queryOp .empty ch
  | .cap ch => fun _ => capOp ch
  | .snap ch => fun _ => snapOp ch
  | .fcTxt => fun _ => fcTxtOp
  | .fcTxi => fun _ => fcTxiOp
  | .fcRxt => fun _ => fcRxtOp
  | .fcRxi => fun _ => fcRxiOp
  | .isr => isrOp
  | .errChk => fun _ => errChkOp
  | .rxBurst => rxBurstOp
  | .txBurst => txBurstOp
  | .wrnb len => fun a s => wrnbOp (s.takeBytes len).1 a (s.takeBytes len).2
  | .write len => fun a s => writeOp len (s.takeBytes len).1 a (s.takeBytes len).2
  | .rdnb len => rdnbOp len
  | .read len => readOp len
  | .raise ch => fun _ => raiseOp ch
  | .wait ch => fun _ => waitOp ch []
  | .wreset ch => fun _ => wresetOp ch
  | .tarm => fun _ => tarmOp
  | .tstop => fun _ => tstopOp
  | .tfire => fun _ => tfireOp
  | .construct ch capv => fun _ => constructOp ch capv
  | .setup => fun _ => setupOp

theorem exec_eq_perform (i : Instr) (s : State) : exec i s = perform i (meaning i) s := by
  cases i <;> rfl

/-- Every operation that a port permits is a run of its agent's writes. -/
theorem meaning_endsWell {a : Agent} {s : State} {i : Instr} (hp : permitted s a i = true) :
    EndsWell a s (meaning i a s) := by
  obtain ⟨hacc, -⟩ := (permitted_iff ..).1 hp
  cases i with
  | push ch b => exact pushOp_endsWell ((accepts_push ..).1 hacc) b
  | pop ch => exact popOp_endsWell ((accepts_pop ..).1 hacc)
  | peek ch => exact peekOp_endsWell ch
  | used ch | isFull ch | isEmpty ch => exact queryOp_endsWell _ ch
  | cap ch => exact .same s _
  | snap ch => exact snapOp_endsWell ((accepts_snap ..).1 hacc)
  | fcTxt => exact fcTxtOp_endsWell (beq_iff_eq.1 hacc)
  | fcTxi => exact fcTxiOp_endsWell (beq_iff_eq.1 hacc)
  | fcRxt => exact fcRxtOp_endsWell (beq_iff_eq.1 hacc)
  | fcRxi => exact fcRxiOp_endsWell (beq_iff_eq.1 hacc)
  | isr => exact isrLoop_endsWell (beq_iff_eq.1 hacc) _ s hp
  | errChk => exact errChkOp_endsWell (beq_iff_eq.1 hacc)
  | rxBurst => exact rxBurstOp_endsWell (beq_iff_eq.1 hacc) s
  | txBurst => exact txBurstOp_endsWell (beq_iff_eq.1 hacc) s
  | wrnb len => exact .env (.takeBytes s len) (wrnbOp_endsWell (beq_iff_eq.1 hacc) _ _)
  | write len => exact .env (.takeBytes s len) (writeOp_endsWell (beq_iff_eq.1 hacc) len _ _ hp)
  | rdnb len => exact rdnbOp_endsWell (beq_iff_eq.1 hacc) len s
  | read len => exact readLoop_endsWell (beq_iff_eq.1 hacc) len 2 s hp
  | raise ch => exact .change (.raiseWake ch (.inl (beq_iff_eq.1 hacc))) _
  | wait ch => exact waitOp_endsWell (seqOk_of_outer (p := .wait2 ch) rfl hp rfl)
  | wreset ch => exact .change (.resetWake ch (beq_iff_eq.1 hacc)) _
  | tarm => exact .change (.armTimer (beq_iff_eq.1 hacc)) _
  | tstop => exact .change (.stopTimer (beq_iff_eq.1 hacc)) _
  | tfire => exact .reply _ (fireTimer_runs (beq_iff_eq.1 hacc))
  | construct ch capv => exact constructOp_endsWell (beq_iff_eq.1 hacc) ch capv
  | setup => exact .change (.enableRx (.inr (beq_iff_eq.1 hacc))) _

/-- What a command leaves, run whole or just accepted: an answer of 30_encoding.md R96 that changes nothing of
the block, or what an idle agent can leave. -/
def Performed (s t : State) : Prop :=
  SameBlock s t ∨
  (s.run.get s.issuer = .idle ∧ Ends s.issuer s t ∧ (s.seq.get s.issuer = none → agentOk t s.issuer = true))

theorem accept_performed {i : Instr} {s t : State} {go : Host.Outcome State Fault Refusal}
    (h : accept i s go = .next t) (hgo : ready i s → go = .next t → Performed s t) : Performed s t := by
  rcases accept_cases _ _ _ _ h with ⟨-, ho⟩ | ⟨-, -, ho⟩ | ⟨-, -, -, ho⟩ | ⟨hr, ho⟩ | ⟨-, -, -, -, ho⟩
  · cases ho; exact .inl (.respond ..)
  · cases ho; exact .inl (.respond ..)
  · cases ho; exact .inl (.respond ..)
  · exact hgo hr ho.symm
  · cases ho

/-- Everything `exec` can lead to. -/
theorem exec_performed {i : Instr} {s t : State} (h : exec i s = .next t) : Performed s t := by
  rw [exec_eq_perform] at h
  refine accept_performed h fun hr hx => .inr ⟨hr.2.1, ?_⟩
  exact complete_ends (meaning_endsWell (permitted_of_ready hr)) hr.2.1 hx

end Sys2Proof.Machine
end

section
/-! SUPPORT. Events: each labelled step, and how a reply is handed to the composites, in the legal states. -/

namespace Sys2Proof.Machine

/-! ### Replies handed to composites -/

/-- What the loops of the composites read in the answer of a part. -/
def answers (s : State) : Instr → Reply → Prop
  | .isFull ch, r => r.value ≠ 1 → isFullNow s ch = false
  | .isEmpty ch, r => r.value ≠ 1 → isEmptyNow s ch = false
  | .peek ch, r =>
    isEmptyNow s ch = false ∧ r.value.setWidth 8 = s.memRead ch (slotOf (s.ridx.get ch) (s.cap.get ch))
  | _, _ => True

/-- A composite that goes on enters a legal position, or answers in its turn. -/
inductive GoesOn (s : State) (op : Instr) : Resumption → Prop
  | enter (p : Pos) (ds : List Caller) (hch : chained (opOf p) ds = true) (hout : outerOp (opOf p) ds = op)
      (hpos : posOk s true p = true) : GoesOn s op (.enter p ds)
  | answer (r : Reply) (h : answers s op r) : GoesOn s op (.answer r)

/-- A composite pushes only after an answer of room, pops and peeks only after an answer of data
(60_exceptions.md R282). -/
theorem resume_goesOn {s : State} {c : Caller} {r : Reply} (h : answers s (calledOp c) r) :
    GoesOn s (callerOp c) (resume r c) := by
  cases c with
  | isrErrChk | isrRxBurst | isrTxBurst | rxBurstPush | txBurstPop | writeWait | readWait =>
    exact .enter _ _ rfl rfl rfl
  | rxBurstFc | txBurstFc | wrnbFc | rdnbFc => exact .answer _ trivial
  | rxBurstIsFull =>
    rw [resume]
    split
    · exact .enter _ _ rfl rfl rfl
    · next hv => exact .enter _ _ rfl rfl ((posOk_rxBurst2 ..).2 (h hv))
  | txBurstIsEmpty =>
    rw [resume]
    split
    · exact .enter _ _ rfl rfl rfl
    · next hv => exact .enter _ _ rfl rfl ((posOk_peek1 ..).2 fun _ => h hv)
  | txBurstPeek => exact .enter _ _ rfl rfl ((posOk_txBurst3 ..).2 h)
  | wrnbSnap rest => cases rest <;> exact .enter _ _ rfl rfl rfl
  | wrnbPush rest n => cases rest <;> exact .enter _ _ rfl rfl rfl
  | wrnbIsFull rest n =>
    cases rest with
    | nil => exact .enter _ _ rfl rfl rfl
    | cons b bs =>
      rw [resume]
      split
      · exact .enter _ _ rfl rfl rfl
      · next hv => exact .enter _ _ rfl rfl ((posOk_push1 ..).2 fun _ => h hv)
  | writeWrnb len rest =>
    rw [resume]
    split
    · exact .enter _ _ rfl rfl rfl
    · split
      · exact .answer _ trivial
      · exact .enter _ _ rfl rfl rfl
  | rdnbSnap more => cases more <;> exact .enter _ _ rfl rfl rfl
  | rdnbPop more buf => cases more <;> exact .enter _ _ rfl rfl rfl
  | rdnbIsEmpty more buf =>
    rw [resume]
    split
    · exact .enter _ _ rfl rfl rfl
    · next hv => exact .enter _ _ rfl rfl ((posOk_pop1 ..).2 fun _ => h hv)
  | readRdnb len =>
    rw [resume]
    split
    · exact .enter _ _ rfl rfl rfl
    · exact .answer _ trivial

/-- A position inside a composite claims no less than the same position outside one. -/
theorem posOk_of_inside {s : State} {p : Pos} (h : posOk s true p = true) (inside : Bool) :
    posOk s inside p = true := by
  cases inside with
  | true => exact h
  | false =>
    cases p with
    | query2 q => cases q <;> simp_all [posOk]
    | _ => simp_all [posOk]

/-- Handing a reply outwards changes the agent's own entries only. -/
theorem unwind_own (a : Agent) (cs : List Caller) (r : Reply) (s : State) :
    ∃ v q rs, (v = .idle ∨ v = s.run.get a) ∧ unwind a cs r s = s.own a v q rs := by
  induction cs generalizing r with
  | nil => exact ⟨.idle, none, _, .inl rfl, rfl⟩
  | cons c cs ih =>
    unfold unwind
    split
    · exact ⟨_, _, _, .inr rfl, State.setSeq_eq_own rfl _⟩
    · exact ih _

theorem seqOk_append {a : Agent} {s : State} {p : Pos} {ds cs : List Caller} {op : Instr}
    (hch : chained (opOf p) ds = true)
    (hout : outerOp (opOf p) ds = op) (hcs : chained op cs = true) (hp : permitted s a (outerOp op cs) = true)
    (hpos : posOk s (!(ds ++ cs).isEmpty) p = true) : seqOk s a ⟨p, ds ++ cs⟩ = true := by
  subst hout
  refine seqOk_of_outer ?_ ?_ hpos
  · rw [chained_append, hch, hcs]; rfl
  · rwa [outerOp_append]

/-- Handing a reply outwards leaves the agent idle or inside a legal operation. -/
theorem unwind_agentOk {a : Agent} {s : State} {op : Instr} {cs : List Caller} {r : Reply}
    (hrun : s.run.get a = .busy)
    (hch : chained op cs = true) (hp : permitted s a (outerOp op cs) = true) (hr : cs ≠ [] → answers s op r) :
    agentOk (unwind a cs r s) a = true := by
  induction cs generalizing op r with
  | nil => exact agentOk_free (m := s) (.inl rfl) _
  | cons c cs ih =>
    simp only [chained, Bool.and_eq_true, beq_iff_eq] at hch
    obtain ⟨rfl, hcs⟩ := hch
    have hgo := resume_goesOn (hr (by simp))
    unfold unwind
    split
    · next p ds hres =>
      rw [hres] at hgo
      cases hgo with
      | enter _ _ hds hout hpos =>
        rw [State.setSeq_eq_own hrun]
        exact agentOk_busy (seqOk_append hds hout hcs hp (posOk_of_inside hpos _)) _
    · next r' hres =>
      rw [hres] at hgo
      cases hgo with
      | answer _ h => exact ih hcs hp fun _ => h

/-! ### One labelled step -/

theorem SameBlock.isFullNow_eq {s t : State} (h : SameBlock s t) (ch : Chan) :
    isFullNow t ch = isFullNow s ch := by
  rw [isFullNow, h.cap, h.widx, h.ridx]
  rfl

theorem SameBlock.isEmptyNow_eq {s t : State} (h : SameBlock s t) (ch : Chan) :
    isEmptyNow t ch = isEmptyNow s ch := by
  rw [isEmptyNow, h.widx, h.ridx]
  rfl

theorem emptyAt_iff_used (w r : Index) : emptyAt w r = true ↔ (usedOf w r).toNat = 0 := by
  simp only [emptyAt, beq_iff_eq]
  exact ⟨fun h => by rw [h]; rfl, fun h => BitVec.eq_of_toNat_eq h⟩

/-- What one event at a legal position leads to: a run of writes, then the next legal position of the same
operation, an answer that the callers can rely on, or an ending. -/
inductive EventOk (a : Agent) (s : State) (p : Pos) (inside : Bool) : EventResult → Prop
  | go {t : State} (p' : Pos) (ds : List Caller) (h : Runs a s t) (hch : chained (opOf p') ds = true)
      (hout : outerOp (opOf p') ds = opOf p) (hpos : posOk t (inside || !ds.isEmpty) p' = true) :
      EventOk a s p inside (.go t p' ds)
  | answer {t : State} (r : Reply) (h : Runs a s t) (hr : inside = true → answers t (opOf p) r) :
      EventOk a s p inside (.answer t r)
  | violated (code : ViolationCode) (ch : Chan) (r : Reply) (hi : inside = false) :
      EventOk a s p inside (.violated (s.violation a code ch) r)
  | park (ch : Chan) (hp : p = .wait1 ch) : EventOk a s p inside (.park (s.setWake ch .parked) (.wait2 ch))
  | stuck (f : Fault) : EventOk a s p inside (.stuck f)

section

variable {a : Agent} {s : State} {p : Pos} {inside : Bool}

theorem fcTxiTail_ok {t : State} (u : Index) (hop : opOf p = .fcTxi) (h : Runs a s t) : EventOk a s p inside
    (fcTxiTail t u) := by
  unfold fcTxiTail
  split
  · exact .go _ _ h rfl hop.symm rfl
  · exact .answer _ h fun _ => hop ▸ trivial

theorem fcRxiTail_ok {t : State} (u : Index) (hop : opOf p = .fcRxi) (h : Runs a s t) : EventOk a s p inside
    (fcRxiTail t u) := by
  unfold fcRxiTail
  split
  · exact .go _ _ h rfl hop.symm rfl
  · split
    · exact .answer _ h fun _ => hop ▸ trivial
    · exact .go _ _ h rfl hop.symm rfl

/-- A position inside a composite never goes on to a violation: its test had the other outcome. -/
theorem violate_ok {code : ViolationCode} {ch : Chan} {b : Bool} (hop : opOf (.violate code ch) = opOf p)
    (h : inside = true → b = false) (hb : b = true) : EventOk a s p inside (.go s (.violate code ch) []) := by
  refine .go _ _ .refl rfl hop ((posOk_violate ..).2 ?_)
  cases inside with
  | false => rfl
  | true => exact absurd (hb.symm.trans (h rfl)) (by simp)

/-- Every labelled step, from a position whose claims hold. -/
theorem posEvent_ok (hp : permitted s a (opOf p) = true) (hpos : posOk s inside p = true) :
    EventOk a s p inside (posEvent a s p) := by
  have hacc := ((permitted_iff ..).1 hp).1
  cases p with
  | push1 ch b =>
    exact .go _ _ .refl rfl rfl ((posOk_push2 ..).2 ⟨rfl, by simpa using hpos⟩)
  | push2 ch b w =>
    obtain ⟨rfl, hroom⟩ := (posOk_push2 ..).1 hpos
    rw [posEvent]
    split
    · next hf => exact violate_ok rfl hroom hf
    · next hf => exact .go _ _ .refl rfl rfl ((posOk_push4 ..).2 ⟨rfl, Bool.eq_false_of_not_eq_true hf⟩)
  | push4 ch b w =>
    obtain ⟨rfl, hroom⟩ := (posOk_push4 ..).1 hpos
    exact .go _ _ (.single (.store ch b ((accepts_push ..).1 hacc) hroom)) rfl rfl
      ((posOk_push5 ..).2 ⟨rfl, hroom, (memRead_memWrite_same ..).symm⟩)
  | push5 ch b w =>
    obtain ⟨rfl, hroom, -⟩ := (posOk_push5 ..).1 hpos
    exact .answer _ (.single (.publish ch ((accepts_push ..).1 hacc) hroom)) fun _ => trivial
  | pop1 ch => exact .go _ _ .refl rfl rfl ((posOk_pop2 ..).2 ⟨rfl, by simpa using hpos⟩)
  | pop2 ch r =>
    obtain ⟨rfl, hdata⟩ := (posOk_pop2 ..).1 hpos
    rw [posEvent]
    split
    · next he => exact violate_ok rfl hdata he
    · next he => exact .go _ _ .refl rfl rfl ((posOk_pop4 ..).2 ⟨rfl, Bool.eq_false_of_not_eq_true he⟩)
  | pop4 ch r =>
    obtain ⟨rfl, hdata⟩ := (posOk_pop4 ..).1 hpos
    exact .go _ _ .refl rfl rfl ((posOk_pop5 ..).2 ⟨rfl, hdata, rfl⟩)
  | pop5 ch r b =>
    obtain ⟨rfl, hdata, -⟩ := (posOk_pop5 ..).1 hpos
    exact .answer _ (.single (.consume ch ((accepts_pop ..).1 hacc) hdata)) fun _ => trivial
  | peek1 ch => exact .go _ _ .refl rfl rfl ((posOk_peek2 ..).2 ⟨rfl, by simpa using hpos⟩)
  | peek2 ch r =>
    obtain ⟨rfl, hdata⟩ := (posOk_peek2 ..).1 hpos
    rw [posEvent]
    split
    · next he => exact violate_ok rfl hdata he
    · next he => exact .go _ _ .refl rfl rfl ((posOk_peek4 ..).2 ⟨rfl, Bool.eq_false_of_not_eq_true he⟩)
  | peek4 ch r =>
    obtain ⟨rfl, hdata⟩ := (posOk_peek4 ..).1 hpos
    exact .answer _ .refl fun _ => ⟨hdata, by simp [Reply.okVal]⟩
  | violate code ch => exact .violated code ch _ ((posOk_violate ..).1 hpos)
  | query1 q ch =>
    refine .go _ _ .refl rfl (by cases q <;> rfl) ?_
    cases q with
    | used => rfl
    | full => exact (posOk_query2_full ..).2 fun _ => rfl
    | empty => exact (posOk_query2_empty ..).2 fun _ => le_rfl
  | query2 q ch w =>
    refine .answer _ .refl fun hi => ?_
    cases q with
    | used => trivial
    | full =>
      obtain rfl := (posOk_query2_full ..).1 hpos hi
      intro hv
      rw [ne_eq, queryReply_full_value] at hv
      exact Bool.eq_false_of_not_eq_true hv
    | empty =>
      have hle := (posOk_query2_empty ..).1 hpos hi
      intro hv
      rw [ne_eq, queryReply_empty_value, emptyAt_iff_used] at hv
      exact (isEmptyNow_false_iff ..).2 ((Nat.pos_of_ne_zero hv).trans_le hle)
  | cap1 => exact .answer _ .refl fun _ => trivial
  | snap1 ch => exact .go _ _ (.single (.latchW ch ((accepts_snap ..).1 hacc))) rfl rfl rfl
  | snap2 ch => exact .answer _ (.single (.latchR ch ((accepts_snap ..).1 hacc))) fun _ => trivial
  | fcTxt1 | fcTxi1 | fcRxt1 | fcRxi1 => exact .go _ _ .refl rfl rfl rfl
  | fcTxt2 w1 | fcRxt2 w1 =>
    rw [posEvent]
    split
    · exact .go _ _ .refl rfl rfl rfl
    · exact .answer _ .refl fun _ => trivial
  | fcTxt3 => exact .answer _ (.single (.enableTx (beq_iff_eq.1 hacc))) fun _ => trivial
  | fcRxt3 => exact .answer _ (.single (.enableRx (.inl (beq_iff_eq.1 hacc)))) fun _ => trivial
  | fcTxi2 w1 =>
    rw [posEvent]
    split
    · exact .go _ _ .refl rfl rfl rfl
    · exact fcTxiTail_ok _ rfl .refl
  | fcTxi3 u => exact fcTxiTail_ok _ rfl (.single (.disableTx (beq_iff_eq.1 hacc)))
  | fcTxi4 | fcRxi4b => exact .answer _ (.single (.raiseWake _ (.inl (beq_iff_eq.1 hacc)))) fun _ => trivial
  | fcRxi2 w1 =>
    rw [posEvent]
    split
    · exact .go _ _ .refl rfl rfl rfl
    · exact fcRxiTail_ok _ rfl .refl
  | fcRxi3 u => exact fcRxiTail_ok _ rfl (.single (.disableRx (beq_iff_eq.1 hacc)))
  | fcRxi4a => exact .go _ _ (.single (.stopTimer (beq_iff_eq.1 hacc))) rfl rfl rfl
  | fcRxi4c | tarm1 => exact .answer _ (.single (.armTimer (beq_iff_eq.1 hacc))) fun _ => trivial
  | isr1 =>
    rw [posEvent]
    split
    · next hd => exact .go _ _ (.single (.env (.devPoll hd))) rfl rfl rfl
    · next hd => exact .answer _ (.single (.env (.devPoll hd))) fun _ => trivial
  | isr3 =>
    rw [posEvent]
    split
    · next hd => exact .go _ _ (.single (.env (.devRxReady hd))) rfl rfl rfl
    · next hd => exact .go _ _ (.single (.env (.devRxReady hd))) rfl rfl rfl
  | isr4 =>
    rw [posEvent]
    split
    · next hd => exact .go _ _ (.single (.env (.devTxReady hd))) rfl rfl rfl
    · next hd => exact .go _ _ (.single (.env (.devTxReady hd))) rfl rfl rfl
  | errChk1 =>
    rw [posEvent]
    split
    · next hd => exact .go _ _ (.single (.env (.devErrors hd))) rfl rfl rfl
    · next hd => exact .go _ _ (.single (.env (.devErrors hd))) rfl rfl rfl
    · next hd => exact .answer _ (.single (.env (.devErrors hd))) fun _ => trivial
  | errChk2 framing =>
    have h : Runs a s s.countOverrun := .single (.countOverrun (beq_iff_eq.1 hacc))
    rw [posEvent]
    split
    · exact .go _ _ h rfl rfl rfl
    · exact .answer _ h fun _ => trivial
  | errChk3 => exact .answer _ (.single (.countFraming (beq_iff_eq.1 hacc))) fun _ => trivial
  | rxBurst2 =>
    rw [posEvent]
    split
    · next hd =>
      have hsame := SameBlock.devRead hd
      have hroom := (posOk_rxBurst2 ..).1 hpos
      exact .go _ _ (.single (.env hsame)) rfl rfl
        ((posOk_push1 ..).2 fun _ => (hsame.isFullNow_eq .rx).trans hroom)
    · next hd => exact .go _ _ (.single (.env (.devRead hd))) rfl rfl rfl
  | txBurst3 b =>
    rw [posEvent]
    split
    · next hd =>
      have hsame := SameBlock.devWrite hd
      obtain ⟨hdata, -⟩ := (posOk_txBurst3 ..).1 hpos
      exact .go _ _ (.single (.env hsame)) rfl rfl
        ((posOk_pop1 ..).2 fun _ => (hsame.isEmptyNow_eq .tx).trans hdata)
    · next hd => exact .go _ _ (.single (.env (.devWrite hd))) rfl rfl rfl
  | raise1 ch => exact .answer _ (.single (.raiseWake ch (.inl (beq_iff_eq.1 hacc)))) fun _ => trivial
  | wait1 ch =>
    rw [posEvent]
    split
    · next hw => exact .answer _ (.single (.takeWake ch ((accepts_wait ..).1 hacc) hw)) fun _ => trivial
    · exact .park ch rfl
    · exact .stuck _
  | wait2 => exact .answer _ .refl fun _ => trivial
  | wreset1 ch => exact .answer _ (.single (.resetWake ch (beq_iff_eq.1 hacc))) fun _ => trivial
  | tstop1 => exact .answer _ (.single (.stopTimer (beq_iff_eq.1 hacc))) fun _ => trivial
  | tfire1 => exact .answer _ (fireTimer_runs (beq_iff_eq.1 hacc)) fun _ => trivial
  | construct1 ch capv =>
    have ha : a = .host := beq_iff_eq.1 hacc
    rw [posEvent]
    split
    · exact .answer _ .refl fun _ => trivial
    · next hc =>
      split
      · exact .answer _ .refl fun _ => trivial
      · next hw =>
        split
        · exact .answer _ .refl fun _ => trivial
        · next hr =>
          exact .answer _ (.single (.construct ch capv ha (not_ne_iff.1 hc) (Bool.eq_true_of_not_eq_false hw)
            (Bool.eq_true_of_not_eq_false hr))) fun _ => trivial
  | setup1 => exact .answer _ (.single (.enableRx (.inr (beq_iff_eq.1 hacc)))) fun _ => trivial

end

/-! ### One event of an agent -/

theorem settle_ok {a : Agent} {s t : State} {q : Sequencer} (hrun : s.run.get a = .busy)
    (hq : seqOk s a q = true)
    {r : EventResult} (hr : EventOk a s q.pos (!q.callers.isEmpty) r) (h : settle a q.callers r = .next t) :
    Ends a s t ∧ agentOk t a = true := by
  obtain ⟨hch, hout, hpos⟩ := (seqOk_iff ..).1 hq
  cases hr with
  | @go m p' ds hm hds hop hpos' =>
    have hmrun := hm.ownKept.run.trans hrun
    obtain rfl : m.setSeq a (some ⟨p', ds ++ q.callers⟩) = t := by simpa [settle] using h
    rw [State.setSeq_eq_own hmrun]
    have hins : (!(ds ++ q.callers).isEmpty) = (!q.callers.isEmpty || !ds.isEmpty) := by
      cases ds <;> cases q.callers <;> rfl
    have hq' := seqOk_append hds hop hch (hm.permitted_kept hout) (hins ▸ hpos')
    exact ⟨.own .busy _ _ hm (by simp), agentOk_busy hq' _⟩
  | @answer m r hm hans =>
    have hmrun := hm.ownKept.run.trans hrun
    obtain rfl : unwind a q.callers r m = t := by simpa [settle] using h
    refine ⟨?_, unwind_agentOk hmrun hch (hm.permitted_kept hout) fun hne => hans (by simpa using hne)⟩
    obtain ⟨v, sq, rs, hv, heq⟩ := unwind_own a q.callers r m
    rw [heq]
    exact .own v sq rs hm (by rcases hv with rfl | rfl <;> simp [hmrun])
  | violated code ch r hi =>
    obtain rfl : ((s.violation a code ch).setSeq a none).respond a r = t := by simpa [settle] using h
    rw [State.setSeq_eq_own (PerAgent.get_set_same ..)]
    exact ⟨.halt code ch none _ .refl, agentOk_free (m := s.violation a code ch) (.inr rfl) _⟩
  | park ch hp =>
    obtain rfl : ((s.setWake ch .parked).setSeq a (some ⟨.wait2 ch, q.callers⟩)).setRun a .parked = t := by
      simpa [settle] using h
    have hq' : seqOk s a ⟨.wait2 ch, q.callers⟩ = true := by
      rw [hp] at hch hout
      exact seqOk_of_outer hch hout rfl
    obtain ⟨ha, hc⟩ := seqOk_wait2 hq'
    exact ⟨.park ch _ s.responses .refl ha hc, agentOk_waiting hq' s.responses⟩
  | stuck f => simp [settle] at h

theorem agentOk_of_busy {a : Agent} {s : State} (hok : agentOk s a = true) (hrun : s.run.get a = .busy) :
    ∃ q, s.seq.get a = some q ∧ seqOk s a q = true := by
  rcases (agentOk_iff ..).1 hok with ⟨hr, -⟩ | ⟨-, h⟩ | ⟨hr, -⟩
  · simp [hrun] at hr
  · exact h
  · simp [hrun] at hr

theorem agentEvent_ok {a : Agent} {s t : State} (hok : agentOk s a = true) (hrun : s.run.get a = .busy)
    (h : agentEvent a s = .next t) : Ends a s t ∧ agentOk t a = true := by
  obtain ⟨q, hseq, hq⟩ := agentOk_of_busy hok hrun
  obtain ⟨hch, hout, hpos⟩ := (seqOk_iff ..).1 hq
  rw [agentEvent, hseq] at h
  exact settle_ok hrun hq (posEvent_ok (permitted_chain hch hout).1 hpos) h

end Sys2Proof.Machine
end

section
/-! SUPPORT. Events in every state, commands, and everything one step can be. -/

namespace Sys2Proof.Machine

/-! ### Events in every state -/

/-- What an event changes neither in legal states nor in others. -/
structure Quiet (s t : State) : Prop where
  keeps : Keeps s t
  fault : t.fault = s.fault

theorem Quiet.refl (s : State) : Quiet s s := ⟨.refl s, rfl⟩

theorem Quiet.of_same {s t : State} (hc : t.cap = s.cap) (hm : t.mode = s.mode) (hs : t.storage = s.storage)
    (hf : t.fault = s.fault) : Quiet s t := ⟨.of_same hc hm hs, hf⟩

theorem SameBlock.quiet {s t : State} (h : SameBlock s t) : Quiet s t := ⟨h.keeps, h.fault⟩

/-- What one event at any position leads to, in every state. -/
inductive EventQuiet (a : Agent) (s : State) : EventResult → Prop
  | go {t : State} (p : Pos) (cs : List Caller) (h : Quiet s t) : EventQuiet a s (.go t p cs)
  | answer {t : State} (r : Reply) (h : Quiet s t) : EventQuiet a s (.answer t r)
  | violated (code : ViolationCode) (ch : Chan) (r : Reply) : EventQuiet a s
      (.violated (s.violation a code ch) r)
  | park {t : State} (p : Pos) (h : Quiet s t) : EventQuiet a s (.park t p)
  | stuck (f : Fault) : EventQuiet a s (.stuck f)

theorem fcTxiTail_quiet {a : Agent} {s t : State} (h : Quiet s t) (u : Index) : EventQuiet a s
    (fcTxiTail t u) := by
  unfold fcTxiTail
  split
  · exact .go _ _ h
  · exact .answer _ h

theorem fcRxiTail_quiet {a : Agent} {s t : State} (h : Quiet s t) (u : Index) : EventQuiet a s
    (fcRxiTail t u) := by
  unfold fcRxiTail
  split
  · exact .go _ _ h
  · split
    · exact .answer _ h
    · exact .go _ _ h

theorem posEvent_quiet (a : Agent) (s : State) (p : Pos) : EventQuiet a s (posEvent a s p) := by
  cases p with
  | push1 | pop1 | pop4 | peek1 | query1 | fcTxt1 | fcTxi1 | fcRxt1 | fcRxi1 => exact .go _ _ (.refl s)
  | peek4 | query2 | cap1 | wait2 => exact .answer _ (.refl s)
  | push2 | pop2 | peek2 =>
    rw [posEvent]
    split <;> exact .go _ _ (.refl s)
  | fcTxt2 | fcRxt2 =>
    rw [posEvent]
    split
    · exact .go _ _ (.refl s)
    · exact .answer _ (.refl s)
  | push4 ch b w => exact .go _ _ ⟨.memWrite s ch _ b, rfl⟩
  | violate code ch => exact .violated code ch _
  | snap1 => exact .go _ _ (.of_same rfl rfl rfl rfl)
  | push5 | pop5 | snap2 | fcTxt3 | fcRxt3 | errChk3 | setup1 => exact .answer _ (.of_same rfl rfl rfl rfl)
  | fcTxi2 =>
    rw [posEvent]
    split
    · exact .go _ _ (.refl s)
    · exact fcTxiTail_quiet (.refl s) _
  | fcRxi2 =>
    rw [posEvent]
    split
    · exact .go _ _ (.refl s)
    · exact fcRxiTail_quiet (.refl s) _
  | fcTxi3 u => exact fcTxiTail_quiet (s := s) (t := s.disableTx) (.of_same rfl rfl rfl rfl) u
  | fcRxi3 u => exact fcRxiTail_quiet (s := s) (t := s.disableRx) (.of_same rfl rfl rfl rfl) u
  | fcTxi4 | fcRxi4b | fcRxi4c | raise1 | wreset1 | tarm1 | tstop1 =>
    exact .answer _ (.of_same (by simp) (by simp) (by simp) (by simp))
  | tfire1 => exact .answer _ (.of_same (by simp) (by simp) (by simp) (by simp))
  | fcRxi4a => exact .go _ _ (.of_same (by simp) (by simp) (by simp) (by simp))
  | isr1 =>
    rw [posEvent]
    split
    · next hd => exact .go _ _ (SameBlock.devPoll hd).quiet
    · next hd => exact .answer _ (SameBlock.devPoll hd).quiet
  | isr3 =>
    rw [posEvent]
    split <;> next hd => exact .go _ _ (SameBlock.devRxReady hd).quiet
  | isr4 =>
    rw [posEvent]
    split <;> next hd => exact .go _ _ (SameBlock.devTxReady hd).quiet
  | errChk1 =>
    rw [posEvent]
    split
    · next hd => exact .go _ _ (SameBlock.devErrors hd).quiet
    · next hd => exact .go _ _ (SameBlock.devErrors hd).quiet
    · next hd => exact .answer _ (SameBlock.devErrors hd).quiet
  | errChk2 framing =>
    rw [posEvent]
    split
    · exact .go _ _ (.of_same rfl rfl rfl rfl)
    · exact .answer _ (.of_same rfl rfl rfl rfl)
  | rxBurst2 =>
    rw [posEvent]
    split <;> next hd => exact .go _ _ (SameBlock.devRead hd).quiet
  | txBurst3 =>
    rw [posEvent]
    split <;> next hd => exact .go _ _ (SameBlock.devWrite hd).quiet
  | wait1 =>
    rw [posEvent]
    split
    · exact .answer _ (.of_same rfl rfl rfl rfl)
    · exact .park _ (.of_same rfl rfl rfl rfl)
    · exact .stuck _
  | construct1 ch capv =>
    rw [posEvent]
    split
    · exact .answer _ (.refl s)
    · next hc =>
      split
      · exact .answer _ (.refl s)
      · split
        · exact .answer _ (.refl s)
        · exact .answer _ ⟨.constructChan s ch capv (not_ne_iff.1 hc), rfl⟩

theorem settle_keeps {a : Agent} {s t : State} {cs : List Caller} {r : EventResult} (hr : EventQuiet a s r)
    (h : settle a cs r = .next t) : Keeps s t ∧ FaultKept s t := by
  cases hr with
  | @go m p ds hm =>
    obtain rfl : m.setSeq a (some ⟨p, ds ++ cs⟩) = t := by simpa [settle] using h
    exact ⟨hm.keeps.trans (.of_same rfl rfl rfl), .of_same hm.fault⟩
  | @answer m r hm =>
    obtain rfl : unwind a cs r m = t := by simpa [settle] using h
    obtain ⟨v, q, rs, -, heq⟩ := unwind_own a cs r m
    rw [heq]
    exact ⟨hm.keeps.trans (.of_same rfl rfl rfl), .of_same hm.fault⟩
  | violated code ch r =>
    obtain rfl : ((s.violation a code ch).setSeq a none).respond a r = t := by simpa [settle] using h
    exact ⟨.of_same rfl rfl rfl, violation_faultKept s a code ch rfl (PerAgent.get_set_same ..)⟩
  | @park m p hm =>
    obtain rfl : (m.setSeq a (some ⟨p, cs⟩)).setRun a .parked = t := by simpa [settle] using h
    exact ⟨hm.keeps.trans (.of_same rfl rfl rfl), .of_same hm.fault⟩
  | stuck f => simp [settle] at h

theorem agentEvent_keeps {a : Agent} {s t : State} (h : agentEvent a s = .next t) :
    Keeps s t ∧ FaultKept s t := by
  unfold agentEvent at h
  split at h
  · cases h
    exact ⟨.refl s, .of_same rfl⟩
  · exact settle_keeps (posEvent_quiet a s _) h

/-! ### Commands -/

/-- An operation that a port permits starts at a legal position. -/
theorem entry_seqOk {a : Agent} {s : State} {i : Instr} {bytes : List Byte} {p : Pos} {cs : List Caller}
    (hp : permitted s a i = true) (h : entry bytes i = .enter p cs) : seqOk s a ⟨p, cs⟩ = true := by
  cases i with
  | write len =>
    rw [entry] at h
    split at h
    · cases h
    · cases h; exact seqOk_of_outer rfl hp rfl
  | _ => cases h; exact seqOk_of_outer rfl hp rfl

theorem entryBytes_cases (i : Instr) (s : State) :
    (entryBytes i s).2 = s ∨ ∃ len, (entryBytes i s).2 = (s.takeBytes len).2 := by
  cases i with
  | wrnb len | write len => exact .inr ⟨len, rfl⟩
  | _ => exact .inl rfl

theorem entryBytes_same (i : Instr) (s : State) : SameBlock s (entryBytes i s).2 ∧
    (entryBytes i s).2.issuer = s.issuer := by
  rcases entryBytes_cases i s with h | ⟨len, h⟩ <;> rw [h]
  · exact ⟨.refl s, rfl⟩
  · exact ⟨.takeBytes s len, rfl⟩

theorem startOp_performed {i : Instr} {s t : State} (h : startOp i s = .next t) : Performed s t := by
  refine accept_performed h fun hr ho => .inr ⟨hr.2.1, ?_⟩
  obtain ⟨hsame, hissuer⟩ := entryBytes_same i s
  generalize entryBytes i s = e at *
  obtain ⟨bytes, u⟩ := e
  have hu : Runs s.issuer s u := .single (.env hsame)
  dsimp only at ho hissuer
  rw [hissuer] at ho
  split at ho
  · next p cs he =>
    cases ho
    exact ⟨.own .busy _ u.responses hu (by simp), fun _ =>
      agentOk_busy (entry_seqOk (hu.permitted_kept (permitted_of_ready hr)) he) u.responses⟩
  · cases ho
    exact ⟨.own .idle none _ hu (by simp), fun _ => agentOk_free (m := u) (.inl rfl) _⟩

theorem Performed.keeps {s t : State} (h : Performed s t) : Keeps s t ∧ FaultKept s t := by
  rcases h with h | ⟨-, h, -⟩
  · exact ⟨h.keeps, .of_same h.fault⟩
  · exact ⟨h.keeps, h.faultKept⟩

/-! ### Steps -/

/-- Everything a step that is no power-on reset can be: no change of the block, one event of a busy agent, or
a command, from a state `u` that differs from `s` in its environment only. -/
inductive Moves (s t : State) : Prop
  | env (h : SameBlock s t)
  | event {u : State} (a : Agent) (hu : SameBlock s u) (hrun : u.run.get a = .busy)
      (h : agentEvent a u = .next t)
  | command {u : State} (hu : SameBlock s u) (h : Performed u t)

theorem Moves.after {s u t : State} (hu : SameBlock s u) (h : Moves u t) : Moves s t := by
  cases h with
  | env h => exact .env (hu.trans h)
  | event a hv hrun h => exact .event a (hu.trans hv) hrun h
  | command hv h => exact .command (hu.trans hv) h

theorem takeCommand_same (s : State) (a : Agent) (c : Command) (rest : List Command) :
    SameBlock s (takeCommand s a c rest) := by
  constructor <;> rfl

section

variable {f : Instr → State → Host.Outcome State Fault Refusal} (hf : ∀ i s t, f i s = .next t → Performed s t)
include hf

theorem portTurn_moves {a : Agent} {s t : State} (h : portTurn f a s = .next t) : Moves s t := by
  unfold portTurn at h
  split at h
  · cases h; exact .env (.refl s)
  · next c rest _ =>
    have hu := takeCommand_same s a c rest
    split at h
    · exact .command hu (hf _ _ _ h)
    · cases h; exact .env (hu.trans (.respond ..))

theorem agentTurn_moves {a : Agent} {s t : State} (h : agentTurn f a s = .next t) : Moves s t := by
  unfold agentTurn at h
  split at h
  · exact portTurn_moves hf h
  · next hrun => exact .event a (.refl s) hrun h
  · cases h; exact .env (.refl s)
  · exact portTurn_moves hf h

end

theorem isrHolds_busy {s : State} (h : isrHolds s = true) : s.run.get .isr = .busy := by
  simp only [isrHolds, Bool.and_eq_true, beq_iff_eq] at h
  exact h.2

/-- Everything a step can be. -/
theorem step_moves {s t : State} (h : step s = .next t) :
    (∃ ts, s.sched = .powerOn :: ts ∧ t = { s with sched := ts }.powerOnReset) ∨
    ((∀ ts, s.sched ≠ .powerOn :: ts) ∧ Moves s t) := by
  have hsched : ∀ ts, SameBlock s { s with sched := ts } := fun ts => by constructor <;> rfl
  rw [step, turn] at h
  split at h
  · next ts hs =>
    cases h
    exact .inl ⟨ts, hs, rfl⟩
  · next hs =>
    refine .inr ⟨by simp [hs], ?_⟩
    split at h
    · next hi => exact .event .isr (.refl s) (isrHolds_busy hi) h
    · cases h; exact .env (.refl s)
  · next a ts hs =>
    refine .inr ⟨by simp [hs], ?_⟩
    split at h
    · next hi => exact .event .isr (.refl s) (isrHolds_busy hi) h
    · exact (agentTurn_moves (fun _ _ _ => exec_performed) h).after (hsched ts)
  · next a ts hs =>
    refine .inr ⟨by simp [hs], ?_⟩
    split at h
    · next hi => exact .event .isr (.refl s) (isrHolds_busy hi) h
    · exact (agentTurn_moves (fun _ _ _ => startOp_performed) h).after (hsched ts)

theorem Moves.keeps {s t : State} (h : Moves s t) : Keeps s t ∧ FaultKept s t := by
  have hfault : ∀ u, SameBlock s u → FaultKept u t → FaultKept s t := fun u hu h =>
    ⟨fun v hv => h.kept v (hu.fault.trans hv), fun v h0 => h.halts v (hu.fault.trans h0)⟩
  cases h with
  | env h => exact ⟨h.keeps, .of_same h.fault⟩
  | event a hu hrun h =>
    obtain ⟨hk, hf⟩ := agentEvent_keeps h
    exact ⟨hu.keeps.trans hk, hfault _ hu hf⟩
  | command hu h =>
    obtain ⟨hk, hf⟩ := h.keeps
    exact ⟨hu.keeps.trans hk, hfault _ hu hf⟩

theorem SameBlock.ringInv_kept {s t : State} (h : SameBlock s t) (hs : ringInv s = true) :
    ringInv t = true := by
  rw [ringInv_iff] at *
  obtain ⟨hr, hw, ha⟩ := hs
  refine ⟨(Change.env (a := .host) h).ringOk hr, (Change.env (a := .host) h).wakeOk hw, fun b => ?_⟩
  exact agentOk_view (.of_same b h.cap h.storage h.widx h.ridx) (by rw [h.seq]) (.inl (by rw [h.run])) (ha b)

theorem Ends.ringInv_kept {a : Agent} {s t : State} (h : Ends a s t) (hs : ringInv s = true)
    (hp : s.run.get a ≠ .parked)
    (ha : agentOk t a = true) : ringInv t = true :=
  (ringInv_iff_base t a).2 ⟨h.base ((ringInv_iff_base s a).1 hs).1 hp, ha⟩

/-- The same from a legal state: the agent that moves is named, and what it is left inside is legal. -/
inductive LegalMoves (s t : State) : Prop
  | env (h : SameBlock s t)
  | ends {u : State} (a : Agent) (hu : SameBlock s u) (hrun : u.run.get a = .busy ∨ u.run.get a = .idle)
      (h : Ends a u t)
      (ha : agentOk t a = true)

theorem seq_none_of_idle {a : Agent} {s : State} (h : agentOk s a = true) (hrun : s.run.get a = .idle) :
    s.seq.get a = none := by
  rcases (agentOk_iff ..).1 h with ⟨-, h⟩ | ⟨hr, -⟩ | ⟨hr, -⟩
  · exact h
  · simp [hrun] at hr
  · simp [hrun] at hr

theorem Moves.legal {s t : State} (h : Moves s t) (hs : ringInv s = true) : LegalMoves s t := by
  have hok : ∀ u a, SameBlock s u → agentOk u a = true := fun u a hu =>
    ((ringInv_iff_base u a).1 (hu.ringInv_kept hs)).2
  cases h with
  | env h => exact .env h
  | event a hu hrun h =>
    obtain ⟨hends, ha⟩ := agentEvent_ok (hok _ a hu) hrun h
    exact .ends a hu (.inl hrun) hends ha
  | @command u hu h =>
    rcases h with h | ⟨hrun, hends, ha⟩
    · exact .env (hu.trans h)
    · exact .ends u.issuer hu (.inr hrun) hends (ha (seq_none_of_idle (hok u _ hu) hrun))

theorem LegalMoves.ringInv_kept {s t : State} (h : LegalMoves s t) (hs : ringInv s = true) :
    ringInv t = true := by
  cases h with
  | env h => exact h.ringInv_kept hs
  | ends a hu hrun h ha => exact h.ringInv_kept (hu.ringInv_kept hs) (by rcases hrun with h | h <;> simp [h]) ha

/-- The ring invariant reads no field that power-on reset keeps. -/
theorem ringInv_powerOnReset (s : State) : ringInv s.powerOnReset = true :=
  show ringInv State.reset = true by decide

/-- A halted agent has no event, and a raise makes only a waiter busy, which a halted agent is not. -/
theorem LegalMoves.halted {s t : State} (h : LegalMoves s t) (hs : ringInv s = true) {b : Agent}
    (hb : s.run.get b = .halted) :
    t.run.get b = .halted := by
  cases h with
  | env h => rw [h.run, hb]
  | @ends u a hu hrun h ha =>
    have hub : u.run.get b = .halted := by rw [hu.run, hb]
    by_contra hne
    have hba : b ≠ a := by
      rintro rfl
      rcases hrun with h | h <;> simp [hub] at h
    obtain ⟨-, ch, rfl, hpk⟩ := h.rights.run b hba (hub ▸ hne)
    obtain ⟨-, hwake, -⟩ := (ringInv_iff u).1 (hu.ringInv_kept hs)
    have hparked := (hwake ch).parked.1 hpk
    simp [hub] at hparked

end Sys2Proof.Machine
end

section
/-! PROOFS. The statements of 10_state.md. -/

namespace Sys2Proof.Proofs

open Sys2Proof Sys2Proof.Machine

/-- Settles O55: a step is a run of one agent's writes, each of which keeps the rings, the signals and what
the other agents hold of them, and leaves the moving agent inside a legal operation. -/
theorem ringInvariantKept : Obligations.RingInvariantKept := by
  intro s t hs h
  rcases step_moves h with ⟨ts, -, rfl⟩ | ⟨-, hm⟩
  · exact ringInv_powerOnReset _
  · exact (hm.legal hs).ringInv_kept hs

/-- Settles O51: every operation, and every event of a legal state, is a run of writes that the table of
rights allows, and rights compose. -/
theorem singleWriterPerElement : Obligations.SingleWriterPerElement := by
  constructor
  · intro i s t h
    rcases exec_performed h with h | ⟨-, h, -⟩
    · exact (h.rights s.issuer).writesAllowed (.inl h.fault)
    · exact h.rights.writesAllowed h.fault_or_halted
  · intro a s t hs hrun h
    obtain ⟨-, hok⟩ := (ringInv_iff_base s a).1 hs
    obtain ⟨hends, -⟩ := agentEvent_ok hok hrun h
    exact hends.rights.writesAllowed hends.fault_or_halted

/-- Settles O52: no write touches `FAULT`, a violation keeps the first one and halts its agent, and in a legal
state no write of another agent moves a halted one. -/
theorem violationIsSticky : Obligations.ViolationIsSticky := by
  intro s t hpow h
  rcases step_moves h with ⟨ts, hs, -⟩ | ⟨-, hm⟩
  · exact absurd hs (hpow ts)
  · have hf := hm.keeps.2
    exact ⟨hf.kept, hf.halts, fun a hs ha => (hm.legal hs).halted hs ha⟩

/-- Settles O53: among all writes only a construction sets a capacity, of a channel whose capacity is 0, and
stores keep the canonical form. -/
theorem stepKeepsCapacityModeAndStorageForm : Obligations.StepKeepsCapacityModeAndStorageForm := by
  intro s t h
  rcases step_moves h with ⟨ts, hs, rfl⟩ | ⟨-, hm⟩
  · exact ⟨fun _ _ hpow => absurd hs (hpow ts), rfl, fun ch _ => wf_powerOnReset _ ch⟩
  · obtain ⟨hcap, hmode, hform⟩ := hm.keeps.1
    exact ⟨fun ch hc _ => hcap ch hc, hmode, hform⟩

/-- Settles O11, by evaluation of the reset state and of the power-on turn. -/
theorem powerOnResetState : Obligations.PowerOnResetState := by
  refine ⟨by decide, rfl, fun s ts hs => ?_⟩
  have hstep : step s = .next { s with sched := ts }.powerOnReset := by simp [step, turn, hs]
  exact ⟨_, hstep, rfl, rfl, rfl, rfl, rfl, rfl, rfl, rfl, rfl, rfl, rfl, rfl, rfl, rfl⟩

/-- Settles O16: the three answers of R96 do not apply and the agent is not idle. -/
theorem secondOperationAtBusyPortRefused : Obligations.SecondOperationAtBusyPortRefused := by
  intro i s hacc hcons hrun
  rw [exec_eq_perform]
  rcases hrun with hrun | hrun <;> simp [perform, accept, hacc, hcons, hrun]

/-- Settles O54, by evaluation. -/
theorem ringInvariantAtReset : Obligations.RingInvariantAtReset := by
  unfold Obligations.RingInvariantAtReset
  decide

end Sys2Proof.Proofs
end

section
/-! SUPPORT. What one turn runs, and what one event leaves as it was, in every state: the other agents, the
ports and the schedule (20_memory.md R70, R73), and the rings but for the steps that write them (R62, R65). -/

namespace Sys2Proof.Machine

/-! ### Turns -/

/-- A port with no operation in progress hands its first command, decoded, to `f`. -/
theorem agentTurn_command {f : Instr → State → Host.Outcome State Fault Refusal} {s : State} {a : Agent}
    {c : Command} {rest : List Command} {i : Instr} (hrun : s.run.get a = .idle ∨ s.run.get a = .halted)
    (hport : s.ports.get a = c :: rest) (hdec : decode c.word = .ok i) :
    agentTurn f a s = f i (takeCommand s a c rest) := by
  have hturn : agentTurn f a s = portTurn f a s := by
    rcases hrun with h | h <;> rw [agentTurn, h]
  rw [hturn, portTurn, hport]
  simp only [hdec]

theorem agentTurn_busy {f : Instr → State → Host.Outcome State Fault Refusal} {s : State} {a : Agent}
    (hrun : s.run.get a = .busy) : agentTurn f a s = agentEvent a s := by
  rw [agentTurn, hrun]

theorem step_run {s : State} {a : Agent} {ts : List Turn} (hfree : isrHolds s = false)
    (hs : s.sched = .run a :: ts) : step s = agentTurn exec a { s with sched := ts } := by
  simp [step, turn, hs, hfree]

theorem step_event {s : State} {a : Agent} {ts : List Turn} (hfree : isrHolds s = false)
    (hs : s.sched = .event a :: ts) : step s = agentTurn startOp a { s with sched := ts } := by
  simp [step, turn, hs, hfree]

/-- While the handler holds the block every turn but power-on reset is its event. -/
theorem step_held {s : State} (hheld : isrHolds s = true) (hpow : ∀ ts, s.sched ≠ .powerOn :: ts) :
    step s = agentEvent .isr s := by
  unfold step turn
  split
  · next ts hs => exact absurd hs (hpow ts)
  all_goals exact if_pos hheld

/-! ### The frame of one event -/

/-- The state that a labelled step leaves, where it leaves one. -/
def EventResult.state : EventResult → Option State
  | .go s _ _ => some s
  | .answer s _ => some s
  | .violated s _ => some s
  | .park s _ => some s
  | .stuck _ => none

/-- The labelled steps that write a storage, a counter or a capacity. -/
def writesRing : Pos → Bool
  | .push4 _ _ _ | .push5 _ _ _ | .pop5 _ _ _ | .construct1 _ _ => true
  | _ => false

/-- What the step at `p` by agent `a` leaves as it was. -/
structure EventFrame (a : Agent) (p : Pos) (s t : State) : Prop where
  ports : t.ports = s.ports
  sched : t.sched = s.sched
  seq : t.seq = s.seq
  run : ∀ b, b ≠ a → t.run.get b = s.run.get b ∨
    (t.run.get b = .busy ∧ ∃ ch, b = threadOf ch ∧ s.wake.get ch = .parked)
  ring : writesRing p = false → t.cap = s.cap ∧ t.storage = s.storage ∧ t.widx = s.widx ∧ t.ridx = s.ridx

namespace EventFrame

variable {a : Agent} {p : Pos} {s t : State}

theorem refl (a : Agent) (p : Pos) (s : State) : EventFrame a p s s where
  ports := rfl
  sched := rfl
  seq := rfl
  run := fun _ _ => .inl rfl
  ring := fun _ => ⟨rfl, rfl, rfl, rfl⟩

theorem ofRing (hp : writesRing p = true) (hports : t.ports = s.ports) (hsched : t.sched = s.sched)
    (hseq : t.seq = s.seq) (hrun : t.run = s.run) : EventFrame a p s t where
  ports := hports
  sched := hsched
  seq := hseq
  run := fun _ _ => .inl (by rw [hrun])
  ring := by simp [hp]

/-- A call that the device answers, with its answer. -/
theorem ofCall {α : Type} {x : α × State} {y : α} (hx : x = (y, t)) (h : EventFrame a p s x.2) :
    EventFrame a p s t := by
  rw [hx] at h
  exact h

end EventFrame

/-- A raise touches the signal and, where it is parked, its waiter. -/
theorem EventFrame.raise {a : Agent} {p : Pos} {s u : State} (ch : Chan) (hwake : u.wake = s.wake)
    (h : EventFrame a p s u) : EventFrame a p s (u.raiseWake ch) where
  ports := by simp [h.ports]
  sched := by simp [h.sched]
  seq := by simp [h.seq]
  run := fun b hb => by
    rcases raiseWake_run u ch b with hsame | ⟨hth, hpk, hbusy⟩
    · rw [hsame]
      exact h.run b hb
    · exact .inr ⟨hbusy, ch, hth, hwake ▸ hpk⟩
  ring := fun hp => by
    obtain ⟨hcap, hstorage, hwidx, hridx⟩ := h.ring hp
    simp [hcap, hstorage, hwidx, hridx]

theorem fcTxiTail_state (s : State) (u : Index) : (fcTxiTail s u).state = some s := by
  unfold fcTxiTail
  split <;> rfl

theorem fcRxiTail_state (s : State) (u : Index) : (fcRxiTail s u).state = some s := by
  unfold fcRxiTail
  split
  · rfl
  · split <;> rfl

/-- Everything a labelled step leaves as it was, in every state. -/
theorem posEvent_frame {a : Agent} {s t : State} {p : Pos} (h : (posEvent a s p).state = some t) :
    EventFrame a p s t := by
  cases p with
  | push1 | pop1 | pop4 | peek1 | peek4 | query1 | query2 | cap1 | fcTxt1 | fcTxi1 | fcRxt1 | fcRxi1 | wait2 =>
    cases h
    exact .refl ..
  | push2 | pop2 | peek2 | fcTxt2 | fcRxt2 =>
    rw [posEvent] at h
    split at h <;> (cases h; exact .refl ..)
  | push4 | push5 | pop5 =>
    cases h
    exact .ofRing rfl rfl rfl rfl rfl
  | violate code ch =>
    cases h
    exact { EventFrame.refl a _ s with run := fun b hb => .inl (PerAgent.get_set_ne _ _ _ _ hb) }
  | snap1 | snap2 | fcTxt3 | fcRxt3 | fcRxi4a | fcRxi4c | errChk3 | wreset1 | tarm1 | tstop1 | setup1 =>
    cases h
    constructor <;> simp
  | fcTxi2 =>
    rw [posEvent] at h
    split at h
    · cases h
      exact .refl ..
    · rw [fcTxiTail_state] at h
      cases h
      exact .refl ..
  | fcRxi2 =>
    rw [posEvent] at h
    split at h
    · cases h
      exact .refl ..
    · rw [fcRxiTail_state] at h
      cases h
      exact .refl ..
  | fcTxi3 u =>
    rw [posEvent, fcTxiTail_state] at h
    cases h
    constructor <;> simp
  | fcRxi3 u =>
    rw [posEvent, fcRxiTail_state] at h
    cases h
    constructor <;> simp
  | fcTxi4 | fcRxi4b | raise1 =>
    cases h
    exact .raise _ rfl (.refl ..)
  | tfire1 =>
    cases h
    exact EventFrame.raise (u := { s with tmr := .idle }) .rx rfl (by constructor <;> simp)
  | isr1 | isr3 | isr4 | errChk1 | rxBurst2 | txBurst3 =>
    rw [posEvent] at h
    split at h <;> next hd => cases h; exact .ofCall hd (by constructor <;> simp)
  | errChk2 =>
    rw [posEvent] at h
    split at h <;> (cases h; constructor <;> simp)
  | wait1 ch =>
    rw [posEvent] at h
    split at h
    · cases h
      constructor <;> simp
    · cases h
      constructor <;> simp
    · cases h
  | construct1 ch capv =>
    rw [posEvent] at h
    split at h
    · cases h
      exact .refl ..
    · split at h
      · cases h
        exact .refl ..
      · split at h
        · cases h
          exact .refl ..
        · cases h
          exact .ofRing rfl rfl rfl rfl rfl

/-- Settling a labelled step changes the agent's own entries only. -/
theorem settle_own {a : Agent} {cs : List Caller} {r : EventResult} {t : State} (h : settle a cs r = .next t) :
    ∃ m v q rs, r.state = some m ∧ t = m.own a v q rs := by
  cases r with
  | go m p ds =>
    cases h
    exact ⟨m, _, _, _, rfl, State.setSeq_eq_own rfl _⟩
  | answer m r =>
    cases h
    obtain ⟨v, q, rs, -, hown⟩ := unwind_own a cs r m
    exact ⟨m, v, q, rs, rfl, hown⟩
  | violated m r =>
    cases h
    exact ⟨m, m.run.get a, none, (m.respond a r).responses, rfl, by rw [State.setSeq_eq_own rfl]; rfl⟩
  | park m p =>
    cases h
    exact ⟨m, .parked, some ⟨p, cs⟩, m.responses, rfl, rfl⟩
  | stuck f => cases h

/-- One event of an agent inside an operation: its labelled step, then its own entries. -/
theorem agentEvent_frame {a : Agent} {s t : State} {q : Sequencer} (hq : s.seq.get a = some q)
    (h : agentEvent a s = .next t) : ∃ m v q' rs, EventFrame a q.pos s m ∧ t = m.own a v q' rs := by
  rw [agentEvent, hq] at h
  obtain ⟨m, v, q', rs, hm, ht⟩ := settle_own h
  exact ⟨m, v, q', rs, posEvent_frame hm, ht⟩

/-- What one event of `a` leaves of everybody else, in every state. -/
theorem agentEvent_others {a : Agent} {s t : State} (h : agentEvent a s = .next t) :
    t.ports = s.ports ∧ t.sched = s.sched ∧
    ∀ b, b ≠ a → t.seq.get b = s.seq.get b ∧
      (t.run.get b = s.run.get b ∨
        (t.run.get b = .busy ∧ ∃ ch, b = threadOf ch ∧ s.wake.get ch = .parked)) := by
  cases hq : s.seq.get a with
  | none =>
    rw [agentEvent, hq] at h
    cases h
    exact ⟨rfl, rfl, fun _ _ => ⟨rfl, .inl rfl⟩⟩
  | some q =>
    obtain ⟨m, v, q', rs, hm, rfl⟩ := agentEvent_frame hq h
    refine ⟨hm.ports, hm.sched, fun b hb => ?_⟩
    rw [show (m.own a v q' rs).seq.get b = m.seq.get b from PerAgent.get_set_ne _ _ _ _ hb,
      show (m.own a v q' rs).run.get b = m.run.get b from PerAgent.get_set_ne _ _ _ _ hb, hm.seq]
    exact ⟨rfl, hm.run b hb⟩

end Sys2Proof.Machine
end

section
/-! SUPPORT. The content of a ring: what a store, a publish and a consume make of it (20_memory.md R60 to R62). -/

namespace Sys2Proof.Machine

section RingContent

variable {s : State} {ch : Chan}

/-- The content of a ring is read off its capacity, storage and counters. -/
theorem ringContent_congr {t : State} (hcap : t.cap.get ch = s.cap.get ch)
    (hstorage : t.storage.get ch = s.storage.get ch) (hwidx : t.widx.get ch = s.widx.get ch)
    (hridx : t.ridx.get ch = s.ridx.get ch) : ringContent t ch = ringContent s ch := by
  have hbyte : ringByte t ch = ringByte s ch := by
    funext k
    rw [ringByte, hcap, hridx, memRead_congr s t ch _ hstorage]
    rfl
  rw [ringContent, usedNow, hwidx, hridx, hbyte]
  rfl

@[simp] theorem ringContent_length (s : State) (ch : Chan) : (ringContent s ch).length = usedNow s ch := by
  simp [ringContent]

@[simp] theorem ringContent_respond (a : Agent) (r : Reply) : ringContent (s.respond a r) ch = ringContent s ch :=
  rfl

@[simp] theorem ringContent_own (a : Agent) (v : Run) (q : Option Sequencer) (rs : List Response) :
    ringContent (s.own a v q rs) ch = ringContent s ch :=
  rfl

/-- The slot about to be written is none of those that hold the content: the counter values in between are
less than a capacity apart. -/
theorem slotOf_content_ne (hlegal : capLegal (s.cap.get ch) = true) (hroom : isFullNow s ch = false) {k : Nat}
    (hk : k < usedNow s ch) :
    slotOf (s.ridx.get ch + BitVec.ofNat 16 k) (s.cap.get ch) ≠ slotOf (s.widx.get ch) (s.cap.get ch) := by
  have hpow : powerOfTwo (s.cap.get ch) = true := by
    have h0 := RingOk.constructed_of_room hroom
    simp only [capLegal, Bool.or_eq_true, beq_iff_eq, Bool.and_eq_true] at hlegal
    exact (hlegal.resolve_left h0).1
  have hlt := (isFullNow_false_iff s ch).1 hroom
  have hused : (s.widx.get ch - (s.ridx.get ch + BitVec.ofNat 16 k)).toNat = usedNow s ch - k := by
    unfold usedNow usedOf at *
    bv_omega
  refine (slotOf_ne _ _ _ hpow ?_ ?_).symm
  · rw [← Bool.not_eq_true, emptyAt_iff_used, usedOf, hused]
    omega
  · rw [← Bool.not_eq_true, fullAt_iff, hused]
    omega

/-- A store into the slot of the write counter publishes nothing. -/
theorem ringContent_store (hlegal : capLegal (s.cap.get ch) = true) (hroom : isFullNow s ch = false) (b : Byte)
    (d : Chan) :
    ringContent (s.memWrite ch (slotOf (s.widx.get ch) (s.cap.get ch)) b) d = ringContent s d := by
  by_cases hd : d = ch
  · subst hd
    refine List.map_congr_left fun k hk => memRead_memWrite_other _ _ _ _ _ _ fun he => ?_
    exact slotOf_content_ne hlegal hroom (List.mem_range.1 hk) (Prod.mk.inj he).2
  · exact ringContent_congr rfl (PerChan.get_set_ne _ _ _ _ hd) rfl rfl

/-- Publishing appends the byte in the slot of the write counter. -/
theorem ringContent_publish (hroom : isFullNow s ch = false) :
    ringContent (s.setWidx ch (inc16 (s.widx.get ch))) ch =
      ringContent s ch ++ [s.memRead ch (slotOf (s.widx.get ch) (s.cap.get ch))] := by
  have hlt := (isFullNow_false_iff s ch).1 hroom
  have hused : usedNow (s.setWidx ch (inc16 (s.widx.get ch))) ch = usedNow s ch + 1 := by
    simp only [usedNow, State.setWidx_widx, PerChan.get_set_same, State.setWidx_ridx, usedOf_inc16_left] at *
    bv_omega
  have hlast : s.ridx.get ch + BitVec.ofNat 16 (usedNow s ch) = s.widx.get ch := by
    unfold usedNow usedOf
    bv_omega
  have hbyte : ringByte s ch (usedNow s ch) = s.memRead ch (slotOf (s.widx.get ch) (s.cap.get ch)) := by
    rw [ringByte, hlast]
  rw [ringContent, hused, List.range_succ, List.map_append, List.map_singleton, ← hbyte]
  rfl

/-- Publishing leaves the other ring. -/
theorem ringContent_publish_ne {d : Chan} (hd : d ≠ ch) (v : Index) :
    ringContent (s.setWidx ch v) d = ringContent s d :=
  ringContent_congr rfl rfl (PerChan.get_set_ne _ _ _ _ hd) rfl

/-- Consuming drops the byte in the slot of the read counter, the head. -/
theorem ringContent_consume (hdata : isEmptyNow s ch = false) :
    ringContent s ch = s.memRead ch (slotOf (s.ridx.get ch) (s.cap.get ch)) ::
      ringContent (s.setRidx ch (inc16 (s.ridx.get ch))) ch := by
  obtain ⟨n, hn⟩ : ∃ n, usedNow s ch = n + 1 :=
    Nat.exists_eq_succ_of_ne_zero ((isEmptyNow_false_iff s ch).1 hdata).ne'
  have hused : usedNow (s.setRidx ch (inc16 (s.ridx.get ch))) ch = n := by
    rw [RingOk.usedNow_consume hdata, hn]
    rfl
  have hhead : ringByte s ch 0 = s.memRead ch (slotOf (s.ridx.get ch) (s.cap.get ch)) := by
    simp [ringByte]
  have htail : ringByte s ch ∘ Nat.succ = ringByte (s.setRidx ch (inc16 (s.ridx.get ch))) ch := by
    funext k
    have hidx : s.ridx.get ch + BitVec.ofNat 16 (k + 1) = inc16 (s.ridx.get ch) + BitVec.ofNat 16 k := by
      unfold inc16
      bv_omega
    simp only [Function.comp, Nat.succ_eq_add_one, ringByte, hidx, State.setRidx_ridx, PerChan.get_set_same]
    rfl
  rw [ringContent, ringContent, hn, hused, List.range_succ_eq_map, List.map_cons, List.map_map, hhead, htail]

/-- Consuming leaves the other ring. -/
theorem ringContent_consume_ne {d : Chan} (hd : d ≠ ch) (v : Index) :
    ringContent (s.setRidx ch v) d = ringContent s d :=
  ringContent_congr rfl rfl rfl (PerChan.get_set_ne _ _ _ _ hd)

theorem ringContent_head (hdata : isEmptyNow s ch = false) :
    (ringContent s ch).head? = some (s.memRead ch (slotOf (s.ridx.get ch) (s.cap.get ch))) := by
  rw [ringContent_consume hdata, List.head?_cons]

/-- A channel that is constructed held nothing before and holds nothing after. -/
theorem ringContent_construct (hring : RingOk s ch) (hc : s.cap.get ch = 0) (capv : Index) (d : Chan) :
    ringContent (s.constructChan ch capv) d = ringContent s d := by
  by_cases hd : d = ch
  · subst hd
    have h0 : usedNow s d = 0 := by simpa [hc] using hring.used
    rw [List.eq_nil_of_length_eq_zero ((ringContent_length s d).trans h0)]
    simp [ringContent, usedNow, usedOf]
  · exact ringContent_congr (PerChan.get_set_ne _ _ _ _ hd) (PerChan.get_set_ne _ _ _ _ hd)
      (PerChan.get_set_ne _ _ _ _ hd) (PerChan.get_set_ne _ _ _ _ hd)

end RingContent

end Sys2Proof.Machine
end

section
/-! SUPPORT. The content of the rings under whole operations and under single events (20_memory.md R62, R65 to
R67). -/

namespace Sys2Proof.Machine

/-- The word that answers a byte. -/
theorem okVal_byte_word (b : Byte) : (Reply.okVal (b.setWidth 16)).word = b.setWidth 32 := by
  rw [okVal_word]
  exact BitVec.setWidth_setWidth (by decide)

/-! ### Whole operations -/

theorem exec_of_ready {i : Instr} {s : State} (h : ready i s) :
    exec i s = complete s.issuer (meaning i s.issuer s) := by
  rw [exec_eq_perform, perform_of_ready _ _ _ h]

section Whole

variable {s : State} {ch : Chan}

theorem execPush_content (hlegal : capLegal (s.cap.get ch) = true) {b : Byte} (hready : ready (.push ch b) s)
    (hroom : isFullNow s ch = false) :
    ∃ t, exec (.push ch b) s = .next t ∧ ringContent t ch = ringContent s ch ++ [b] ∧
      ∀ d, d ≠ ch → ringContent t d = ringContent s d := by
  have hexec := exec_of_ready hready
  rw [meaning, pushOp_of_room ch b _ s hroom, complete_reply] at hexec
  have hstore := ringContent_store hlegal hroom b
  have hpublish := ringContent_publish
    (s := s.memWrite ch (slotOf (s.widx.get ch) (s.cap.get ch)) b) (ch := ch) hroom
  refine ⟨_, hexec, ?_, fun d hd => ?_⟩
  · rw [State.memWrite_widx, hstore, State.memWrite_cap, memRead_memWrite_same] at hpublish
    rw [ringContent_respond, hpublish]
  · rw [ringContent_respond, ringContent_publish_ne hd, hstore]

theorem execPop_content (hready : ready (.pop ch) s) (hdata : isEmptyNow s ch = false) :
    ∃ x t, exec (.pop ch) s = .next t ∧ ringContent s ch = x :: ringContent t ch ∧
      t.responses = ⟨s.issuer, x.setWidth 32, []⟩ :: s.responses ∧
      ∀ d, d ≠ ch → ringContent t d = ringContent s d := by
  have hexec := exec_of_ready hready
  rw [meaning, popOp_of_data ch _ s hdata, complete_reply] at hexec
  refine ⟨_, _, hexec, ringContent_consume hdata, ?_, fun d hd => ?_⟩
  · rw [← okVal_byte_word]
    rfl
  · rw [ringContent_respond, ringContent_consume_ne hd]

theorem execPeek_content (hready : ready (.peek ch) s) (hdata : isEmptyNow s ch = false) :
    ∃ x t, exec (.peek ch) s = .next t ∧ (ringContent s ch).head? = some x ∧
      t.responses = ⟨s.issuer, x.setWidth 32, []⟩ :: s.responses ∧
      ∀ d, ringContent t d = ringContent s d := by
  have hexec := exec_of_ready hready
  rw [meaning, peekOp_of_data ch _ s hdata, complete_reply] at hexec
  refine ⟨_, _, hexec, ringContent_head hdata, ?_, fun d => ringContent_respond ..⟩
  rw [← okVal_byte_word]
  rfl

end Whole

/-! ### Events -/

theorem agentEvent_of_seq {a : Agent} {s : State} {p : Pos} {cs : List Caller} (h : s.seq.get a = some ⟨p, cs⟩) :
    agentEvent a s = settle a cs (posEvent a s p) := by
  rw [agentEvent, h]

/-- What the position of a busy agent claims in a legal state. -/
theorem posOk_of_busy {a : Agent} {s : State} {q : Sequencer} (hs : ringInv s = true) (hrun : s.run.get a = .busy)
    (hq : s.seq.get a = some q) : posOk s (!q.callers.isEmpty) q.pos = true := by
  obtain ⟨-, hok⟩ := (ringInv_iff_base s a).1 hs
  obtain ⟨q', hq', hseq⟩ := agentOk_of_busy hok hrun
  obtain rfl : q' = q := Option.some.inj (hq'.symm.trans hq)
  exact ((seqOk_iff ..).1 hseq).2.2

/-- Only `PUSH.5` and `POP.5` change the content of a ring. -/
theorem posEvent_content {a : Agent} {s t : State} {p : Pos} {inside : Bool} {ch : Chan}
    (hring : ∀ d, RingOk s d) (hpos : posOk s inside p = true) (h : (posEvent a s p).state = some t)
    (hpush : ∀ b w, p ≠ .push5 ch b w) (hpop : ∀ r b, p ≠ .pop5 ch r b) :
    ringContent t ch = ringContent s ch := by
  cases hp : writesRing p with
  | false =>
    obtain ⟨hcap, hstorage, hwidx, hridx⟩ := (posEvent_frame h).ring hp
    exact ringContent_congr (by rw [hcap]) (by rw [hstorage]) (by rw [hwidx]) (by rw [hridx])
  | true =>
    cases p with
    | push4 d b w =>
      obtain ⟨rfl, hroom⟩ := (posOk_push4 ..).1 hpos
      cases h
      exact ringContent_store (hring d).legal hroom b ch
    | push5 d b w =>
      cases h
      exact ringContent_publish_ne (fun hd => hpush b w (by rw [hd])) _
    | pop5 d r b =>
      cases h
      exact ringContent_consume_ne (fun hd => hpop r b (by rw [hd])) _
    | construct1 d capv =>
      rw [posEvent] at h
      split at h
      · cases h
        rfl
      · next hc =>
        split at h
        · cases h
          rfl
        · split at h
          · cases h
            rfl
          · cases h
            exact ringContent_construct (hring d) (not_ne_iff.1 hc) capv ch
    | _ => cases hp

section Events

variable {a : Agent} {s t : State} {ch : Chan} {cs : List Caller}

/-- Handing a reply outwards leaves the rings. -/
theorem unwind_ring (a : Agent) (cs : List Caller) (r : Reply) (s : State) :
    (unwind a cs r s).storage = s.storage ∧ ∀ d, ringContent (unwind a cs r s) d = ringContent s d := by
  obtain ⟨v, q, rs, -, hown⟩ := unwind_own a cs r s
  rw [hown]
  exact ⟨rfl, fun d => ringContent_own ..⟩

theorem agentEvent_content {q : Sequencer} (hs : ringInv s = true) (hrun : s.run.get a = .busy)
    (hq : s.seq.get a = some q) (h : agentEvent a s = .next t) (hpush : ∀ b w, q.pos ≠ .push5 ch b w)
    (hpop : ∀ r b, q.pos ≠ .pop5 ch r b) : ringContent t ch = ringContent s ch := by
  obtain ⟨hring, -, -⟩ := (ringInv_iff s).1 hs
  rw [agentEvent, hq] at h
  obtain ⟨m, v, q', rs, hm, rfl⟩ := settle_own h
  rw [ringContent_own]
  exact posEvent_content hring (posOk_of_busy hs hrun hq) hm hpush hpop

theorem agentEvent_push4 {b : Byte} {w : Index} (hpos : posOk s (!cs.isEmpty) (.push4 ch b w) = true)
    (hq : s.seq.get a = some ⟨.push4 ch b w, cs⟩) (h : agentEvent a s = .next t) :
    t.memRead ch (slotOf (s.widx.get ch) (s.cap.get ch)) = b ∧ t.widx = s.widx ∧
      t.seq.get a = some ⟨.push5 ch b w, cs⟩ := by
  obtain ⟨rfl, -⟩ := (posOk_push4 ..).1 hpos
  rw [agentEvent_of_seq hq] at h
  cases h
  exact ⟨memRead_memWrite_same s ch _ b, rfl, PerAgent.get_set_same ..⟩

theorem agentEvent_push5 {b : Byte} {w : Index} (hpos : posOk s (!cs.isEmpty) (.push5 ch b w) = true)
    (hq : s.seq.get a = some ⟨.push5 ch b w, cs⟩) (h : agentEvent a s = .next t) :
    ringContent t ch = ringContent s ch ++ [b] ∧ t.storage = s.storage := by
  obtain ⟨rfl, hroom, rfl⟩ := (posOk_push5 ..).1 hpos
  rw [agentEvent_of_seq hq] at h
  cases h
  obtain ⟨hstorage, hcontent⟩ := unwind_ring a cs Reply.ok0 (s.setWidx ch (inc16 (s.widx.get ch)))
  exact ⟨(hcontent ch).trans (ringContent_publish hroom), hstorage⟩

/-- `POP.5` answers the head of the ring, to its port or to the `RDNB` that called it. -/
theorem agentEvent_pop5 {b : Byte} {r : Index} (hpos : posOk s (!cs.isEmpty) (.pop5 ch r b) = true)
    (hq : s.seq.get a = some ⟨.pop5 ch r b, cs⟩) (h : agentEvent a s = .next t) :
    ringContent s ch = b :: ringContent t ch ∧
    (cs = [] → t.responses = ⟨a, b.setWidth 32, []⟩ :: s.responses) ∧
    (∀ buf ds, cs = .rdnbPop 0 buf :: ds → t.seq.get a = some ⟨.fcRxt1, .rdnbFc true (buf ++ [b]) :: ds⟩) ∧
    (∀ m buf ds, cs = .rdnbPop (m + 1) buf :: ds →
      t.seq.get a = some ⟨.query1 .empty .rx, .rdnbIsEmpty (m + 1) (buf ++ [b]) :: ds⟩) := by
  obtain ⟨rfl, hdata, hb⟩ := (posOk_pop5 ..).1 hpos
  have hbyte : (Reply.okVal (b.setWidth 16)).value.setWidth 8 = b := by simp [Reply.okVal]
  rw [agentEvent_of_seq hq] at h
  cases h
  refine ⟨?_, ?_, ?_, ?_⟩
  · rw [(unwind_ring ..).2, hb]
    exact ringContent_consume hdata
  · rintro rfl
    rw [← okVal_byte_word]
    rfl
  · rintro buf ds rfl
    simp [unwind, resume, hbyte]
  · rintro m buf ds rfl
    simp [unwind, resume, hbyte]

/-- `PEEK.4` answers the head of the ring, to its port or to the `TXBURST` that called it. -/
theorem agentEvent_peek4 {r : Index} (hpos : posOk s (!cs.isEmpty) (.peek4 ch r) = true)
    (hq : s.seq.get a = some ⟨.peek4 ch r, cs⟩) (h : agentEvent a s = .next t) :
    ∃ x, (ringContent s ch).head? = some x ∧
      (cs = [] → t.responses = ⟨a, x.setWidth 32, []⟩ :: s.responses) ∧
      (∀ ds, cs = .txBurstPeek :: ds → t.seq.get a = some ⟨.txBurst3 x, ds⟩) := by
  obtain ⟨rfl, hdata⟩ := (posOk_peek4 ..).1 hpos
  rw [agentEvent_of_seq hq] at h
  cases h
  refine ⟨_, ringContent_head hdata, ?_, ?_⟩
  · rintro rfl
    rw [← okVal_byte_word]
    rfl
  · rintro ds rfl
    simp [unwind, resume, Reply.okVal]

/-- The call that `DEV.writeByteNonBlocking` records. -/
theorem devWrite_trace (s : State) (b : Byte) :
    (s.devWrite b).2.trace = .writeByteNonBlocking b (s.devWrite b).1 :: s.trace := by
  unfold State.devWrite
  split <;> rfl

theorem agentEvent_txBurst3 {b : Byte} (hpos : posOk s (!cs.isEmpty) (.txBurst3 b) = true)
    (hq : s.seq.get a = some ⟨.txBurst3 b, cs⟩) (h : agentEvent a s = .next t) :
    (ringContent s .tx).head? = some b ∧ ∃ ok, t.trace = .writeByteNonBlocking b ok :: s.trace := by
  obtain ⟨hdata, rfl⟩ := (posOk_txBurst3 ..).1 hpos
  refine ⟨ringContent_head hdata, ?_⟩
  rw [agentEvent_of_seq hq, posEvent] at h
  split at h <;> next hd => cases h; exact ⟨_, hd ▸ devWrite_trace s _⟩

end Events

end Sys2Proof.Machine
end

section
/-! SUPPORT. Runs of events of one agent, away from its own entries: what the labelled steps of an operation lead
to when no other agent moves (20_memory.md R70, R72; 42_interrupt_handler.md R185). -/

namespace Sys2Proof.Machine

/-- In progress at the labelled step `p` inside the composites `cs`, the agent BUSY. -/
abbrev Result.going (s : State) (p : Pos) (cs : List Caller) : Result := .inProgress s .busy p cs

/-- Where a resumption inside the composites `cs` leads, an answer being handed on by `k`. -/
def Resumption.within (s : State) (cs : List Caller) (k : Reply → Result) : Resumption → Result
  | .enter p ds => .going s p (ds ++ cs)
  | .answer r => k r

/-- Where a reply handed to the composites `cs` leads: `unwind` without the agent's own entries. -/
def handed : List Caller → Reply → State → Result
  | [], r, s => .reply s r
  | c :: cs, r, s => (resume r c).within s cs fun r' => handed cs r' s

/-- Where a labelled step inside the composites `cs` leads: `settle` without the agent's own entries. -/
def settled (cs : List Caller) : EventResult → Result
  | .go s p ds => .going s p (ds ++ cs)
  | .answer s r => handed cs r s
  | .violated s r => .violated s r
  | .park s p => .inProgress s .parked p cs
  | .stuck f => .stuck f

/-- One event of agent `a`. -/
inductive Event (a : Agent) : Result → Result → Prop
  | mk (s : State) (p : Pos) (cs : List Caller) : Event a (.going s p cs) (settled cs (posEvent a s p))

/-- A run of events of agent `a` with no other agent's between them. -/
abbrev Leads (a : Agent) : Result → Result → Prop := Relation.ReflTransGen (Event a)

theorem Leads.event {a : Agent} {s : State} {p : Pos} {cs : List Caller} {y : Result}
    (h : Leads a (settled cs (posEvent a s p)) y) : Leads a (.going s p cs) y :=
  .head (.mk s p cs) h

/-- An operation that ended inside the composites `cs`: its reply is handed to them, anything else ends them. -/
def Result.into (cs : List Caller) : Result → Result
  | .reply s r => handed cs r s
  | .violated s r => .violated s r
  | .inProgress s st p ds => .inProgress s st p ds
  | .stuck f => .stuck f

@[simp] theorem Result.into_nil (x : Result) : x.into [] = x := by cases x <;> rfl

theorem andThen_assoc (x : Result) (f g : State → Reply → Result) :
    (x.andThen f).andThen g = x.andThen fun s r => (f s r).andThen g := by cases x <;> rfl

/-- Composition: events that run a part inside the composite `c`, then events that go on with its reply. -/
theorem Leads.andThen {a : Agent} {c : Caller} {cs : List Caller} {x y : Result} {f : State → Reply → Result}
    (h : Leads a x (y.into (c :: cs))) (hf : ∀ s r, Leads a (handed (c :: cs) r s) ((f s r).into cs)) :
    Leads a x ((y.andThen f).into cs) := by
  cases y with
  | reply s r => exact h.trans (hf s r)
  | violated | inProgress | stuck => exact h

/-- The tests of `FC.RXI` in the order in which its events make them. -/
theorem fcRxiOp_eq (s : State) :
    fcRxiOp s = .reply
      (let u := usedOf (s.widx.get .rx) (s.ridx.get .rx)
       let s1 := if rxIsrDisable (s.widx.get .rx) (s.ridx.get .rx) (s.cap.get .rx) then s.disableRx else s
       if (halfOf (s.cap.get .rx)).toNat ≤ u.toNat then s1.stopTimer.raiseWake .rx
       else if u = 0 then s1 else s1.armTimer) Reply.ok0 := by
  simp only [fcRxiOp, rxIsrWake, rxIsrArm, emptyAt, decide_eq_true_eq]
  congr 1
  split
  · rfl
  · next hlow =>
    by_cases hu : usedOf (s.widx.get .rx) (s.ridx.get .rx) = 0
    · simp [hu]
    · simp [Nat.lt_of_not_le hlow]

/-- Composition at the outermost composite. -/
theorem Leads.andThen_outer {a : Agent} {c : Caller} {x y : Result} {f : State → Reply → Result}
    (h : Leads a x (y.into [c])) (hf : ∀ s r, Leads a (handed [c] r s) (f s r)) : Leads a x (y.andThen f) := by
  rw [← Result.into_nil (y.andThen f)]
  exact h.andThen fun s r => by rw [Result.into_nil]; exact hf s r

/-! ### Single operations, inside any composites -/

section Parts

variable (a : Agent) (s : State) (cs : List Caller)

theorem push_leads (ch : Chan) (b : Byte) : Leads a (.going s (.push1 ch b) cs) ((pushOp ch b a s).into cs) := by
  refine .event (.event ?_)
  cases hf : isFullNow s ch with
  | true =>
    have htest : posEvent a s (.push2 ch b (s.widx.get ch)) = .go s (.violate .pushFull ch) [] := if_pos hf
    rw [pushOp_of_full ch b a s hf, htest]
    exact .event .refl
  | false =>
    have htest : posEvent a s (.push2 ch b (s.widx.get ch)) = .go s (.push4 ch b (s.widx.get ch)) [] :=
      if_neg (Bool.eq_false_iff.1 hf)
    rw [pushOp_of_room ch b a s hf, htest]
    exact .event (.event .refl)

theorem pop_leads (ch : Chan) : Leads a (.going s (.pop1 ch) cs) ((popOp ch a s).into cs) := by
  refine .event (.event ?_)
  cases he : isEmptyNow s ch with
  | true =>
    have htest : posEvent a s (.pop2 ch (s.ridx.get ch)) = .go s (.violate .popEmpty ch) [] := if_pos he
    rw [popOp_of_empty ch a s he, htest]
    exact .event .refl
  | false =>
    have htest : posEvent a s (.pop2 ch (s.ridx.get ch)) = .go s (.pop4 ch (s.ridx.get ch)) [] :=
      if_neg (Bool.eq_false_iff.1 he)
    rw [popOp_of_data ch a s he, htest]
    exact .event (.event .refl)

theorem peek_leads (ch : Chan) : Leads a (.going s (.peek1 ch) cs) ((peekOp ch a s).into cs) := by
  refine .event (.event ?_)
  cases he : isEmptyNow s ch with
  | true =>
    have htest : posEvent a s (.peek2 ch (s.ridx.get ch)) = .go s (.violate .peekEmpty ch) [] := if_pos he
    rw [peekOp_of_empty ch a s he, htest]
    exact .event .refl
  | false =>
    have htest : posEvent a s (.peek2 ch (s.ridx.get ch)) = .go s (.peek4 ch (s.ridx.get ch)) [] :=
      if_neg (Bool.eq_false_iff.1 he)
    rw [peekOp_of_data ch a s he, htest]
    exact .event .refl

theorem query_leads (q : Query) (ch : Chan) : Leads a (.going s (.query1 q ch) cs) ((queryOp q ch s).into cs) :=
  .event (.event .refl)

theorem snap_leads (ch : Chan) : Leads a (.going s (.snap1 ch) cs) ((snapOp ch s).into cs) :=
  .event (.event .refl)

theorem fcTxt_leads : Leads a (.going s .fcTxt1 cs) ((fcTxtOp s).into cs) := by
  refine .event (.event ?_)
  rw [posEvent, fcTxtOp]
  split
  · exact .event .refl
  · exact .refl

theorem fcRxt_leads : Leads a (.going s .fcRxt1 cs) ((fcRxtOp s).into cs) := by
  refine .event (.event ?_)
  rw [posEvent, fcRxtOp]
  split
  · exact .event .refl
  · exact .refl

/-- The level part of `FC.TXI` from a state whose TX ring holds `u` bytes. -/
theorem fcTxiTail_leads (u : Index) : Leads a (settled cs (fcTxiTail s u))
    (handed cs Reply.ok0 (if u.toNat ≤ (halfOf (s.cap.get .tx)).toNat then s.raiseWake .tx else s)) := by
  rw [fcTxiTail]
  split
  · exact .event .refl
  · exact .refl

theorem fcTxi_leads : Leads a (.going s .fcTxi1 cs) ((fcTxiOp s).into cs) := by
  refine .event (.event ?_)
  rw [posEvent]
  have htail := fun t => fcTxiTail_leads a t cs (usedOf (s.widx.get .tx) (s.ridx.get .tx))
  simp only [fcTxiOp, txIsrWake, decide_eq_true_eq]
  split
  · exact .event (htail s.disableTx)
  · exact htail s

/-- The level part of `FC.RXI` from a state whose RX ring holds `u` bytes. -/
theorem fcRxiTail_leads (u : Index) : Leads a (settled cs (fcRxiTail s u))
    (handed cs Reply.ok0
      (if (halfOf (s.cap.get .rx)).toNat ≤ u.toNat then s.stopTimer.raiseWake .rx
       else if u = 0 then s else s.armTimer)) := by
  rw [fcRxiTail]
  split
  · exact .event (.event .refl)
  · split
    · exact .refl
    · exact .event .refl

theorem fcRxi_leads : Leads a (.going s .fcRxi1 cs) ((fcRxiOp s).into cs) := by
  refine .event (.event ?_)
  rw [posEvent, fcRxiOp_eq]
  have htail := fun t => fcRxiTail_leads a t cs (usedOf (s.widx.get .rx) (s.ridx.get .rx))
  split
  · exact .event (htail s.disableRx)
  · exact htail s

theorem errChk_leads : Leads a (.going s .errChk1 cs) ((errChkOp s).into cs) := by
  refine .event ?_
  rw [posEvent, errChkOp]
  rcases s.devErrors with ⟨⟨overrun, framing⟩, t⟩
  cases overrun with
  | true =>
    refine .event ?_
    rw [posEvent]
    cases framing with
    | true => exact .event .refl
    | false => exact .refl
  | false =>
    cases framing with
    | true => exact .event .refl
    | false => exact .refl

theorem wait_leads (ch : Chan) : Leads a (.going s (.wait1 ch) cs) ((waitOp ch cs s).into cs) := by
  refine .event ?_
  rw [posEvent, waitOp]
  cases s.wake.get ch <;> exact .refl

theorem construct_leads (ch : Chan) (capv : Index) :
    Leads a (.going s (.construct1 ch capv) cs) ((constructOp ch capv s).into cs) := by
  refine .event ?_
  rw [posEvent, constructOp]
  split
  · exact .refl
  · split
    · exact .refl
    · split <;> exact .refl

end Parts

end Sys2Proof.Machine
end

section
/-! SUPPORT. Composite operations: their events, part after part, are their meaning (42_interrupt_handler.md R180
to R185, 43_thread_api.md R210 to R213). -/

namespace Sys2Proof.Machine

section Thread

variable (a : Agent)

/-! ### `WRNB` and `WRITE` -/

/-- What `WRNB` does after its loop: the policy, then the response. -/
def wrnbEnd (wanted : Bool) (s : State) (n : Reply) : Result :=
  (fcTxtOp s).andThen fun s _ => .reply s (wrnbReply wanted n.value.toNat)

theorem wrnbEnd_leads (wanted : Bool) {n : Nat} (hn : n < 65536) (cs : List Caller) (s : State) :
    Leads a (.going s .fcTxt1 (.wrnbFc wanted n :: cs))
      ((wrnbEnd wanted s (Reply.okVal (BitVec.ofNat 16 n))).into cs) := by
  have hcount : (Reply.okVal (BitVec.ofNat 16 n)).value.toNat = n := by
    simpa [Reply.okVal] using Nat.mod_eq_of_lt hn
  rw [wrnbEnd, hcount]
  exact (fcTxt_leads a s _).andThen fun t _ => .refl

/-- The loop of `WRNB` with `n` bytes pushed and `rest` to go. -/
theorem wrnbLoop_leads (rest : List Byte) (n : Nat) (hn : n + rest.length < 65536) (cs : List Caller) (r : Reply)
    (s : State) :
    Leads a (handed (.wrnbPush rest n :: cs) r s) (((wrnbLoop a rest n s).andThen (wrnbEnd true)).into cs) := by
  induction rest generalizing n r s with
  | nil => exact wrnbEnd_leads a true hn cs s
  | cons b bs ih =>
    simp only [List.length_cons] at hn
    refine (query_leads a s (.wrnbIsFull (b :: bs) n :: cs) .full .tx).trans ?_
    rw [wrnbLoop, queryOp, andThen_reply, Result.into, handed, resume]
    split
    · exact wrnbEnd_leads a true (by omega) cs s
    · rw [andThen_assoc]
      exact (push_leads a s (.wrnbPush bs (n + 1) :: cs) .tx b).andThen fun t r => ih (n + 1) (by omega) r t

theorem wrnb_leads (bytes : List Byte) (hlen : bytes.length < 65536) (cs : List Caller) (s : State) :
    Leads a (.going s (.snap1 .tx) (.wrnbSnap bytes :: cs)) ((wrnbOp bytes a s).into cs) := by
  refine (snap_leads a s _ .tx).andThen fun t r => ?_
  cases bytes with
  | nil => exact wrnbEnd_leads a false (n := 0) (by omega) cs t
  | cons b bs => exact wrnbLoop_leads a (b :: bs) 0 (by omega) cs r t

theorem writeLoop_leads (len fuel : Nat) (rest : List Byte) (hlen : rest.length < 65536) (s : State) :
    Leads a (.going s (.snap1 .tx) [.wrnbSnap rest, .writeWrnb len rest]) (writeLoop a len fuel rest s) := by
  induction fuel generalizing rest s with
  | zero => exact .refl
  | succ fuel ih =>
    rw [writeLoop]
    refine (wrnb_leads a rest hlen [.writeWrnb len rest] s).andThen_outer fun t res => ?_
    rw [handed, resume]
    split
    · exact (wait_leads a t [.writeWait len rest] .tx).andThen_outer fun u _ => ih rest hlen u
    · split
      · exact .refl
      · exact ih (rest.drop res.value.toNat) (by rw [List.length_drop]; omega) t

/-! ### `RDNB` and `READ` -/

/-- What `RDNB` does after its loop: the policy, then the response. -/
def rdnbEnd (wanted : Bool) (s : State) (got : Reply) : Result :=
  (fcRxtOp s).andThen fun s _ => .reply s (rdnbReply wanted got.data)

theorem rdnbEnd_leads (wanted : Bool) (buf : List Byte) (cs : List Caller) (s : State) :
    Leads a (.going s .fcRxt1 (.rdnbFc wanted buf :: cs)) ((rdnbEnd wanted s (Reply.okData buf)).into cs) :=
  (fcRxt_leads a s _).andThen fun _ _ => .refl

/-- Where the loop of `RDNB` stands with `buf` popped and `more` bytes wanted still. -/
def rdnbHead (more : Nat) (buf : List Byte) (cs : List Caller) (s : State) : Result :=
  match more with
  | 0 => .going s .fcRxt1 (.rdnbFc true buf :: cs)
  | m + 1 => .going s (.query1 .empty .rx) (.rdnbIsEmpty (m + 1) buf :: cs)

theorem handed_rdnbPop (more : Nat) (buf : List Byte) (cs : List Caller) (r : Reply) (s : State) :
    handed (.rdnbPop more buf :: cs) r s = rdnbHead more (buf ++ [r.value.setWidth 8]) cs s := by
  cases more <;> rfl

theorem rdnbLoop_leads (more : Nat) (buf : List Byte) (cs : List Caller) (s : State) :
    Leads a (rdnbHead more buf cs s) (((rdnbLoop a more buf s).andThen (rdnbEnd true)).into cs) := by
  induction more generalizing buf s with
  | zero => exact rdnbEnd_leads a true buf cs s
  | succ more ih =>
    refine (query_leads a s (.rdnbIsEmpty (more + 1) buf :: cs) .empty .rx).trans ?_
    rw [rdnbLoop, queryOp, andThen_reply, Result.into, handed, resume]
    split
    · exact rdnbEnd_leads a true buf cs s
    · rw [andThen_assoc]
      refine (pop_leads a s (.rdnbPop more buf :: cs) .rx).andThen fun t r => ?_
      rw [handed_rdnbPop]
      exact ih _ t

theorem rdnb_leads (len : Nat) (cs : List Caller) (s : State) :
    Leads a (.going s (.snap1 .rx) (.rdnbSnap len :: cs)) ((rdnbOp len a s).into cs) := by
  refine (snap_leads a s _ .rx).andThen fun t r => ?_
  cases len with
  | zero => exact rdnbEnd_leads a false [] cs t
  | succ m =>
    rw [decide_eq_true (Nat.succ_pos m)]
    exact rdnbLoop_leads a (m + 1) [] cs t

theorem readLoop_leads (len fuel : Nat) (s : State) :
    Leads a (.going s (.snap1 .rx) [.rdnbSnap len, .readRdnb len]) (readLoop a len fuel s) := by
  induction fuel generalizing s with
  | zero => exact .refl
  | succ fuel ih =>
    rw [readLoop]
    refine (rdnb_leads a len [.readRdnb len] s).andThen_outer fun t res => ?_
    rw [handed, resume]
    split
    · exact (wait_leads a t [.readWait len] .rx).andThen_outer fun u _ => ih u
    · exact .refl

end Thread

section Handler

variable (a : Agent)

/-! ### The bursts: the fuel of a loop is exactly what the ring allows -/

/-- What `RXBURST` does after its loop. -/
def rxBurstEnd (s : State) (_ : Reply) : Result := (fcRxiOp s).andThen fun s _ => .reply s Reply.ok0

theorem rxBurstEnd_leads (cs : List Caller) (s : State) (r : Reply) :
    Leads a (.going s .fcRxi1 (.rxBurstFc :: cs)) ((rxBurstEnd s r).into cs) :=
  (fcRxi_leads a s _).andThen fun _ _ => .refl

theorem isFullNow_iff_roomOf (s : State) (ch : Chan) : isFullNow s ch = true ↔ roomOf s ch = 0 := by
  rw [isFullNow_iff, roomOf, usedNow]
  omega

theorem roomOf_publish {s : State} {ch : Chan} (hroom : isFullNow s ch = false) :
    roomOf (s.setWidx ch (inc16 (s.widx.get ch))) ch + 1 = roomOf s ch := by
  have hlt := (isFullNow_false_iff s ch).1 hroom
  simp only [roomOf, usedNow, State.setWidx_widx, State.setWidx_ridx, State.setWidx_cap, PerChan.get_set_same,
    usedOf_inc16_left] at *
  bv_omega

theorem rxBurstLoop_leads (fuel : Nat) (cs : List Caller) (s : State) (hfuel : roomOf s .rx = fuel) :
    Leads a (.going s (.query1 .full .rx) (.rxBurstIsFull :: cs))
      (((rxBurstLoop a fuel s).andThen rxBurstEnd).into cs) := by
  induction fuel generalizing s with
  | zero =>
    have hfull := (isFullNow_iff_roomOf s .rx).2 hfuel
    refine (query_leads a s (.rxBurstIsFull :: cs) .full .rx).trans ?_
    rw [queryOp, Result.into, handed, resume, if_pos ((queryReply_full_value ..).2 hfull)]
    exact rxBurstEnd_leads a cs s Reply.ok0
  | succ fuel ih =>
    have hroom : isFullNow s .rx = false := by
      rw [← Bool.not_eq_true, isFullNow_iff_roomOf, hfuel]
      exact Nat.succ_ne_zero fuel
    have hanswer : (queryReply .full (s.widx.get .rx) (s.ridx.get .rx) (s.cap.get .rx)).value ≠ 1 := by
      rw [ne_eq, queryReply_full_value]
      exact Bool.eq_false_iff.1 hroom
    refine (query_leads a s (.rxBurstIsFull :: cs) .full .rx).trans ?_
    rw [rxBurstLoop, queryOp, andThen_reply, Result.into, handed, resume, if_neg hanswer, if_neg hanswer]
    refine Leads.event ?_
    rw [posEvent]
    rcases hd : s.devRead with ⟨x, t⟩
    cases x with
    | none => exact rxBurstEnd_leads a cs t Reply.ok0
    | some x =>
      have hsame := SameBlock.devRead hd
      have hroom' : isFullNow t .rx = false := (hsame.isFullNow_eq .rx).trans hroom
      have hfuel' : roomOf t .rx = fuel + 1 := by rw [roomOf, hsame.cap, hsame.widx, hsame.ridx, ← hfuel, roomOf]
      have hpush := pushOp_of_room .rx x a t hroom'
      refine (push_leads a t (.rxBurstPush :: cs) .rx x).trans ?_
      dsimp only
      rw [hpush, andThen_reply]
      exact ih _ (Nat.succ.inj ((roomOf_publish (s := t.memWrite .rx _ x) hroom').trans hfuel'))

theorem rxBurst_leads (cs : List Caller) (s : State) :
    Leads a (.going s (.query1 .full .rx) (.rxBurstIsFull :: cs)) ((rxBurstOp a s).into cs) :=
  rxBurstLoop_leads a _ cs s rfl

/-- What `TXBURST` does after its loop. -/
def txBurstEnd (s : State) (_ : Reply) : Result := (fcTxiOp s).andThen fun s _ => .reply s Reply.ok0

theorem txBurstEnd_leads (cs : List Caller) (s : State) (r : Reply) :
    Leads a (.going s .fcTxi1 (.txBurstFc :: cs)) ((txBurstEnd s r).into cs) :=
  (fcTxi_leads a s _).andThen fun _ _ => .refl

theorem txBurstLoop_leads (fuel : Nat) (cs : List Caller) (s : State) (hfuel : usedNow s .tx = fuel) :
    Leads a (.going s (.query1 .empty .tx) (.txBurstIsEmpty :: cs))
      (((txBurstLoop a fuel s).andThen txBurstEnd).into cs) := by
  induction fuel generalizing s with
  | zero =>
    have hempty := (isEmptyNow_iff s .tx).2 hfuel
    refine (query_leads a s (.txBurstIsEmpty :: cs) .empty .tx).trans ?_
    rw [queryOp, Result.into, handed, resume, if_pos ((queryReply_empty_value ..).2 hempty)]
    exact txBurstEnd_leads a cs s Reply.ok0
  | succ fuel ih =>
    have hdata : isEmptyNow s .tx = false := by
      rw [isEmptyNow_false_iff, hfuel]
      exact Nat.succ_pos fuel
    have hanswer : (queryReply .empty (s.widx.get .tx) (s.ridx.get .tx) (s.cap.get .tx)).value ≠ 1 := by
      rw [ne_eq, queryReply_empty_value]
      exact Bool.eq_false_iff.1 hdata
    refine (query_leads a s (.txBurstIsEmpty :: cs) .empty .tx).trans ?_
    rw [txBurstLoop, queryOp, andThen_reply, Result.into, handed, resume, if_neg hanswer, if_neg hanswer]
    refine (peek_leads a s (.txBurstPeek :: cs) .tx).trans ?_
    rw [peekOp_of_data .tx a s hdata, andThen_reply]
    refine Leads.event ?_
    rw [posEvent]
    rcases hd : s.devWrite _ with ⟨ok, t⟩
    cases ok with
    | false => exact txBurstEnd_leads a cs t Reply.ok0
    | true =>
      have hsame := SameBlock.devWrite hd
      have hdata' : isEmptyNow t .tx = false := (hsame.isEmptyNow_eq .tx).trans hdata
      have hfuel' : usedNow t .tx = fuel + 1 := by rw [usedNow, hsame.widx, hsame.ridx, ← hfuel, usedNow]
      refine (pop_leads a t (.txBurstPop :: cs) .tx).trans ?_
      dsimp only
      rw [popOp_of_data .tx a t hdata', andThen_reply]
      refine ih _ ?_
      rw [RingOk.usedNow_consume hdata', hfuel']
      rfl

theorem txBurst_leads (cs : List Caller) (s : State) :
    Leads a (.going s (.query1 .empty .tx) (.txBurstIsEmpty :: cs)) ((txBurstOp a s).into cs) :=
  txBurstLoop_leads a _ cs s rfl

/-! ### `ISR` -/

/-- The transmit half of an iteration, `ISR.4`. -/
theorem isrTransmit_leads {f : State → Reply → Result} (hf : ∀ s r, Leads a (.going s .isr1 []) (f s r))
    (s : State) :
    Leads a (.going s .isr4 [])
      ((if s.devTxReady.1 then txBurstOp a s.devTxReady.2 else .reply s.devTxReady.2 Reply.ok0).andThen f) := by
  refine Leads.event ?_
  rw [posEvent]
  rcases s.devTxReady with ⟨ready, t⟩
  cases ready with
  | false => exact hf t Reply.ok0
  | true => exact (txBurst_leads a [.isrTxBurst] t).andThen_outer hf

/-- One iteration of `ISR`, up to the next poll. -/
theorem isrIteration_leads {f : State → Reply → Result} (hf : ∀ s r, Leads a (.going s .isr1 []) (f s r))
    (s : State) : Leads a (.going s .errChk1 [.isrErrChk]) ((isrIteration a s).andThen f) := by
  rw [isrIteration, andThen_assoc]
  refine (errChk_leads a s [.isrErrChk]).andThen_outer fun t _ => Leads.event ?_
  rw [posEvent]
  rcases t.devRxReady with ⟨ready, u⟩
  dsimp only
  rw [andThen_assoc]
  cases ready with
  | false => exact isrTransmit_leads a hf u
  | true => exact (rxBurst_leads a [.isrRxBurst] u).andThen_outer fun v _ => isrTransmit_leads a hf v

theorem isrLoop_leads (fuel : Nat) (s : State) : Leads a (.going s .isr1 []) (isrLoop a fuel s) := by
  induction fuel generalizing s with
  | zero => exact .refl
  | succ fuel ih =>
    refine Leads.event ?_
    rw [posEvent, isrLoop]
    rcases s.devPoll with ⟨pending, t⟩
    cases pending with
    | false => exact .refl
    | true => exact isrIteration_leads a (fun u _ => ih u) t

end Handler

/-! ### Every operation -/

/-- An operation that its port has accepted, before its first event. -/
def begun (i : Instr) (s : State) : Result :=
  settled [] ((entry (entryBytes i s).1 i).result (entryBytes i s).2)

/-- The events of an operation are its meaning. -/
theorem begun_leads (a : Agent) {i : Instr} (hwf : i.wellFormed = true) (s : State) :
    Leads a (begun i s) (meaning i a s) := by
  rw [← Result.into_nil (meaning i a s)]
  cases i with
  | push ch b => exact push_leads a s [] ch b
  | pop ch => exact pop_leads a s [] ch
  | peek ch => exact peek_leads a s [] ch
  | used ch | isFull ch | isEmpty ch => exact query_leads a s [] _ ch
  | snap ch => exact snap_leads a s [] ch
  | fcTxt => exact fcTxt_leads a s []
  | fcTxi => exact fcTxi_leads a s []
  | fcRxt => exact fcRxt_leads a s []
  | fcRxi => exact fcRxi_leads a s []
  | isr =>
    rw [Result.into_nil]
    exact isrLoop_leads a _ s
  | errChk => exact errChk_leads a s []
  | rxBurst => exact rxBurst_leads a [] s
  | txBurst => exact txBurst_leads a [] s
  | wrnb len =>
    have hlen : (s.takeBytes len).1.length < 65536 := by simpa [Instr.wellFormed, lenFits, State.takeBytes] using hwf
    exact wrnb_leads a _ hlen [] _
  | write len =>
    have hlen : (s.takeBytes len).1.length < 65536 := by simpa [Instr.wellFormed, lenFits, State.takeBytes] using hwf
    rw [Result.into_nil, begun, entry, entryBytes, meaning]
    dsimp only
    rw [writeOp]
    split
    · exact .refl
    · exact writeLoop_leads a len 3 _ hlen _
  | rdnb len => exact rdnb_leads a len [] s
  | read len =>
    rw [Result.into_nil]
    exact readLoop_leads a len 2 s
  | wait ch => exact wait_leads a s [] ch
  | construct ch capv => exact construct_leads a s [] ch capv
  | cap | raise | wreset | tarm | tstop | tfire | setup => exact Leads.event .refl

end Sys2Proof.Machine
end

section
/-! SUPPORT. Event turns of one agent run exactly these events: its own entries, which hold the operation in
progress, are read and written by nothing else it does (10_state.md R33, R37). -/

namespace Sys2Proof.Machine

/-! ### The agent's own entries -/

@[simp] theorem PerAgent.set_set {α : Type} (p : PerAgent α) (a : Agent) (v w : α) :
    (p.set a v).set a w = p.set a w := by
  cases a <;> rfl

theorem PerAgent.set_comm {α : Type} (p : PerAgent α) {a b : Agent} (h : a ≠ b) (v w : α) :
    (p.set a v).set b w = (p.set b w).set a v := by
  cases a <;> cases b <;> simp_all [PerAgent.set]

/-- The state with agent `a` BUSY in the operation `q`. -/
def State.busyAt (s : State) (a : Agent) (q : Sequencer) : State := (s.setSeq a (some q)).setRun a .busy

theorem busyAt_setSeq (s : State) (a : Agent) (q : Sequencer) (q' : Option Sequencer) :
    (s.busyAt a q).setSeq a q' = (s.setSeq a q').setRun a .busy := by
  simp [State.busyAt, State.setSeq, State.setRun]

/-- Agent `a` has no operation in progress. -/
structure Fresh (a : Agent) (s : State) : Prop where
  run : s.run.get a = .idle
  seq : s.seq.get a = none

theorem busyAt_finish {a : Agent} {s : State} (h : Fresh a s) (q : Sequencer) (r : Reply) :
    finish a r (s.busyAt a q) = s.respond a r := by
  have hrun : s.run.set a .idle = s.run := by rw [← h.run, PerAgent.set_get]
  have hseq : s.seq.set a none = s.seq := by rw [← h.seq, PerAgent.set_get]
  simp [finish, State.busyAt, State.setSeq, State.setRun, State.respond, hrun, hseq]

/-- The same on the state that a labelled step leaves; a violation has halted the agent. -/
def EventResult.busyAt (a : Agent) (q : Sequencer) : EventResult → EventResult
  | .go s p ds => .go (s.busyAt a q) p ds
  | .answer s r => .answer (s.busyAt a q) r
  | .violated s r => .violated (s.setSeq a (some q)) r
  | .park s p => .park (s.busyAt a q) p
  | .stuck f => .stuck f

section

variable {a : Agent} (s : State) (q : Sequencer)

theorem busyAt_raiseWake {ch : Chan} (h : a ≠ threadOf ch) :
    (s.busyAt a q).raiseWake ch = (s.raiseWake ch).busyAt a q := by
  have hwake : (s.busyAt a q).wake.get ch = s.wake.get ch := rfl
  rw [State.raiseWake, State.raiseWake, hwake]
  cases s.wake.get ch with
  | idle | raised => rfl
  | parked =>
    have hrun := PerAgent.set_comm s.run h .busy .busy
    simp [State.busyAt, State.setSeq, State.setRun, State.setWake, hrun]

theorem busyAt_devPoll : (s.busyAt a q).devPoll = (s.devPoll.1, s.devPoll.2.busyAt a q) := by
  have hdev : (s.busyAt a q).dev = s.dev := rfl
  rw [State.devPoll, State.devPoll, hdev]
  cases s.dev.poll <;> rfl

theorem busyAt_devRxReady : (s.busyAt a q).devRxReady = (s.devRxReady.1, s.devRxReady.2.busyAt a q) := by
  have hdev : (s.busyAt a q).dev = s.dev := rfl
  rw [State.devRxReady, State.devRxReady, hdev]
  cases s.dev.rxReady <;> rfl

theorem busyAt_devTxReady : (s.busyAt a q).devTxReady = (s.devTxReady.1, s.devTxReady.2.busyAt a q) := by
  have hdev : (s.busyAt a q).dev = s.dev := rfl
  rw [State.devTxReady, State.devTxReady, hdev]
  cases s.dev.txReady <;> rfl

theorem busyAt_devRead : (s.busyAt a q).devRead = (s.devRead.1, s.devRead.2.busyAt a q) := by
  have hdev : (s.busyAt a q).dev = s.dev := rfl
  rw [State.devRead, State.devRead, hdev]
  cases s.dev.rx <;> rfl

theorem busyAt_devWrite (b : Byte) :
    (s.busyAt a q).devWrite b = ((s.devWrite b).1, (s.devWrite b).2.busyAt a q) := by
  have hdev : (s.busyAt a q).dev = s.dev := rfl
  rw [State.devWrite, State.devWrite, hdev]
  cases s.dev.tx <;> rfl

theorem busyAt_devErrors : (s.busyAt a q).devErrors = (s.devErrors.1, s.devErrors.2.busyAt a q) := by
  have hdev : (s.busyAt a q).dev = s.dev := rfl
  rw [State.devErrors, State.devErrors, hdev]
  cases s.dev.err <;> rfl

theorem busyAt_armTimer : (s.busyAt a q).armTimer = s.armTimer.busyAt a q := by
  have htmr : (s.busyAt a q).tmr = s.tmr := rfl
  rw [State.armTimer, State.armTimer, htmr]
  cases s.tmr <;> rfl

theorem busyAt_stopTimer : (s.busyAt a q).stopTimer = s.stopTimer.busyAt a q := by
  have htmr : (s.busyAt a q).tmr = s.tmr := rfl
  rw [State.stopTimer, State.stopTimer, htmr]
  cases s.tmr <;> rfl

theorem busyAt_resetWake (ch : Chan) : (s.busyAt a q).resetWake ch = (s.resetWake ch).busyAt a q := by
  have hwake : (s.busyAt a q).wake.get ch = s.wake.get ch := rfl
  rw [State.resetWake, State.resetWake, hwake]
  cases s.wake.get ch <;> rfl

theorem busyAt_fcTxiTail (u : Index) : fcTxiTail (s.busyAt a q) u = (fcTxiTail s u).busyAt a q := by
  rw [fcTxiTail, fcTxiTail, apply_ite (EventResult.busyAt a q)]
  rfl

theorem busyAt_fcRxiTail (u : Index) : fcRxiTail (s.busyAt a q) u = (fcRxiTail s u).busyAt a q := by
  rw [fcRxiTail, fcRxiTail, apply_ite (EventResult.busyAt a q), apply_ite (EventResult.busyAt a q)]
  rfl

/-- No labelled step that the agent's port accepts reads its own entries, and none but the raise of a violation
writes them. -/
theorem busyAt_posEvent {p : Pos} (hacc : accepts a (opOf p) = true) :
    posEvent a (s.busyAt a q) p = (posEvent a s p).busyAt a q := by
  cases p with
  | push1 | push4 | push5 | pop1 | pop4 | pop5 | peek1 | peek4 | query1 | query2 | cap1 | snap1 | snap2 => rfl
  | fcTxt1 | fcTxt3 | fcTxi1 | fcRxt1 | fcRxt3 | fcRxi1 | errChk3 | wait2 | setup1 => rfl
  | violate code ch => simp [posEvent, EventResult.busyAt, State.busyAt, State.violation, State.setSeq, State.setRun]
  | push2 | pop2 | peek2 | fcTxt2 | fcRxt2 | errChk2 =>
    rw [posEvent, posEvent, apply_ite (EventResult.busyAt a q)]
    rfl
  | fcTxi2 w1 =>
    rw [posEvent, posEvent, apply_ite (EventResult.busyAt a q), ← busyAt_fcTxiTail]
    rfl
  | fcRxi2 w1 =>
    rw [posEvent, posEvent, apply_ite (EventResult.busyAt a q), ← busyAt_fcRxiTail]
    rfl
  | fcTxi3 u => exact busyAt_fcTxiTail s.disableTx q u
  | fcRxi3 u => exact busyAt_fcRxiTail s.disableRx q u
  | fcTxi4 | fcRxi4b | raise1 =>
    obtain rfl : a = .isr := beq_iff_eq.1 hacc
    rw [posEvent, busyAt_raiseWake s q (threadOf_ne_isr _).symm]
    rfl
  | tfire1 =>
    obtain rfl : a = .tmr := beq_iff_eq.1 hacc
    have hraise := busyAt_raiseWake { s with tmr := .idle } q (threadOf_ne_tmr .rx).symm
    exact congrArg (EventResult.answer · Reply.ok0) hraise
  | fcRxi4a => rw [posEvent, busyAt_stopTimer]; rfl
  | tstop1 => rw [posEvent, busyAt_stopTimer]; rfl
  | fcRxi4c | tarm1 => rw [posEvent, busyAt_armTimer]; rfl
  | wreset1 ch => rw [posEvent, busyAt_resetWake]; rfl
  | isr1 =>
    rw [posEvent, posEvent, busyAt_devPoll]
    rcases s.devPoll with ⟨_ | _, t⟩ <;> rfl
  | isr3 =>
    rw [posEvent, posEvent, busyAt_devRxReady]
    rcases s.devRxReady with ⟨_ | _, t⟩ <;> rfl
  | isr4 =>
    rw [posEvent, posEvent, busyAt_devTxReady]
    rcases s.devTxReady with ⟨_ | _, t⟩ <;> rfl
  | errChk1 =>
    rw [posEvent, posEvent, busyAt_devErrors]
    rcases s.devErrors with ⟨⟨_ | _, _ | _⟩, t⟩ <;> rfl
  | rxBurst2 =>
    rw [posEvent, posEvent, busyAt_devRead]
    rcases s.devRead with ⟨_ | _, t⟩ <;> rfl
  | txBurst3 b =>
    rw [posEvent, posEvent, busyAt_devWrite]
    rcases s.devWrite b with ⟨_ | _, t⟩ <;> rfl
  | wait1 ch =>
    have hwake : (s.busyAt a q).wake.get ch = s.wake.get ch := rfl
    rw [posEvent, posEvent, hwake]
    cases s.wake.get ch <;> rfl
  | construct1 ch capv =>
    have hcap : (s.busyAt a q).cap.get ch = s.cap.get ch := rfl
    rw [posEvent, posEvent, hcap]
    split
    · rfl
    · split
      · rfl
      · split <;> rfl

end

/-! ### One event turn -/

/-- What agent `a` shows of an operation that is over or in progress is what its entries hold. -/
theorem complete_handed {a : Agent} {s : State} (h : Fresh a s) (q : Sequencer) (cs : List Caller) (r : Reply) :
    complete a (handed cs r s) = .next (unwind a cs r (s.busyAt a q)) := by
  induction cs generalizing r with
  | nil => rw [unwind, busyAt_finish h]; rfl
  | cons c cs ih =>
    rw [handed, unwind]
    split
    · next p ds hres => rw [hres, busyAt_setSeq]; rfl
    · next r' hres => rw [hres]; exact ih r'

theorem Runs.fresh {a : Agent} {s t : State} (h : Runs a s t) (hs : Fresh a s) : Fresh a t where
  run := h.ownKept.run.trans hs.run
  seq := by rw [h.ownKept.seq, hs.seq]

theorem complete_settled {a : Agent} {s : State} {p : Pos} {inside : Bool} {r : EventResult} (hs : Fresh a s)
    (h : EventOk a s p inside r) (q : Sequencer) (cs : List Caller) :
    complete a (settled cs r) = settle a cs (r.busyAt a q) := by
  cases h with
  | go p' ds => rw [EventResult.busyAt, settle, busyAt_setSeq]; rfl
  | answer x hm => exact complete_handed (hm.fresh hs) q cs x
  | violated code ch x =>
    have hseq : s.seq.set a none = s.seq := by rw [← hs.seq, PerAgent.set_get]
    simp [settled, complete, EventResult.busyAt, settle, State.setSeq, State.violation, hseq]
  | park ch =>
    rw [EventResult.busyAt, settle, busyAt_setSeq]
    simp [settled, complete, State.setRun]
  | stuck f => rfl

theorem handed_going {cs ds : List Caller} {r : Reply} {s t : State} {p : Pos}
    (h : handed cs r s = .going t p ds) : t = s := by
  induction cs generalizing r with
  | nil => cases h
  | cons c cs ih =>
    rw [handed] at h
    cases hres : resume r c with
    | enter p' ds' => rw [hres] at h; cases h; rfl
    | answer r' => rw [hres] at h; exact ih h

/-- An operation in progress that an agent with clean entries may run, or one that is over. -/
def LegalResult (a : Agent) (x : Result) : Prop :=
  ∀ s p cs, x = .going s p cs → Fresh a s ∧ seqOk s a ⟨p, cs⟩ = true

theorem EventOk.fresh_going {a : Agent} {s t : State} {p p' : Pos} {inside : Bool} {r : EventResult}
    {cs ds : List Caller} (h : EventOk a s p inside r) (hs : Fresh a s) (ht : settled cs r = .going t p' ds) :
    Fresh a t := by
  cases h with
  | go _ _ hm => cases ht; exact hm.fresh hs
  | answer _ hm => rw [handed_going ht]; exact hm.fresh hs
  | violated | park | stuck => cases ht

/-- An event turn of an agent inside a legal operation is one event of it, and leaves it inside a legal one. -/
theorem agentEvent_busyAt {a : Agent} {s : State} {p : Pos} {cs : List Caller} (hs : Fresh a s)
    (hq : seqOk s a ⟨p, cs⟩ = true) :
    agentEvent a (s.busyAt a ⟨p, cs⟩) = complete a (settled cs (posEvent a s p)) ∧
      LegalResult a (settled cs (posEvent a s p)) := by
  obtain ⟨hch, hout, hpos⟩ := (seqOk_iff ..).1 hq
  have hp := (permitted_chain hch hout).1
  have hok := posEvent_ok hp hpos
  have hstep : agentEvent a (s.busyAt a ⟨p, cs⟩) = complete a (settled cs (posEvent a s p)) := by
    rw [agentEvent_of_seq (PerAgent.get_set_same ..), busyAt_posEvent s _ ((permitted_iff ..).1 hp).1]
    exact (complete_settled hs hok _ cs).symm
  refine ⟨hstep, fun t p' ds ht => ⟨hok.fresh_going hs ht, ?_⟩⟩
  rw [ht] at hstep
  obtain ⟨-, hagent⟩ := agentEvent_ok (agentOk_busy hq s.responses) (PerAgent.get_set_same ..) hstep
  obtain ⟨q, hseq, hq'⟩ := agentOk_of_busy hagent (PerAgent.get_set_same ..)
  obtain rfl : ⟨p', ds⟩ = q := Option.some.inj ((PerAgent.get_set_same ..).symm.trans hseq)
  exact seqOk_view (.of_same a rfl rfl rfl rfl) hq'

/-! ### Runs of event turns -/

/-- `n` event turns of agent `a`, where there is a state to take them from. -/
def eventTurns (a : Agent) (n : Nat) : Host.Outcome State Fault Refusal → Host.Outcome State Fault Refusal
  | .next t => agentEvents a n t
  | .fault f => .fault f
  | .refused r => .refused r

@[simp] theorem eventTurns_zero (a : Agent) (o : Host.Outcome State Fault Refusal) : eventTurns a 0 o = o := by
  cases o <;> rfl

theorem startThenEvents_eq (i : Instr) (n : Nat) (s : State) :
    startThenEvents i n s = eventTurns s.issuer n (startOp i s) := by
  rw [startThenEvents]
  cases startOp i s <;> rfl

theorem eventTurns_succ {a : Agent} {t : State} (h : t.run.get a = .busy) (n : Nat) :
    eventTurns a (n + 1) (.next t) = eventTurns a n (agentEvent a t) := by
  rw [eventTurns, agentEvents, if_pos h]
  cases agentEvent a t <;> rfl

theorem Leads.eventTurns_eq {a : Agent} {x y : Result} (h : Leads a x y) (hx : LegalResult a x) :
    ∃ n, eventTurns a n (complete a x) = complete a y := by
  induction h using Relation.ReflTransGen.head_induction_on with
  | refl => exact ⟨0, eventTurns_zero ..⟩
  | head hstep _ ih =>
    obtain ⟨s, p, cs⟩ := hstep
    obtain ⟨hs, hq⟩ := hx s p cs rfl
    obtain ⟨hevent, hlegal⟩ := agentEvent_busyAt hs hq
    obtain ⟨n, hn⟩ := ih hlegal
    refine ⟨n + 1, ?_⟩
    rw [← hn, ← hevent]
    exact eventTurns_succ (PerAgent.get_set_same ..) n

/-! ### Commands -/

/-- An operation that does not run is answered the same whatever it would do (30_encoding.md R96). -/
theorem accept_of_not_ready {i : Instr} {s : State} (h : ¬ ready i s) (go go' : Host.Outcome State Fault Refusal) :
    accept i s go = accept i s go' := by
  unfold accept
  split
  · rfl
  · next hacc =>
    split
    · rfl
    · split
      · rfl
      · next hcons =>
        split
        · next hidle => exact absurd ⟨by simpa using hacc, hidle, by simpa using hcons⟩ h
        · rfl

/-- An operation that runs is accepted as `begun` says. -/
theorem startOp_of_ready {i : Instr} {s : State} (h : ready i s) (hs : Fresh s.issuer s) :
    startOp i s = complete s.issuer (begun i s) ∧ LegalResult s.issuer (begun i s) := by
  rw [startOp, accept_of_ready _ _ _ h, begun]
  obtain ⟨hsame, hissuer⟩ := entryBytes_same i s
  have hperm : permitted (entryBytes i s).2 s.issuer i = true :=
    permitted_view (.of_same s.issuer hsame.cap hsame.storage hsame.widx hsame.ridx) (permitted_of_ready h)
  have hfresh : Fresh s.issuer (entryBytes i s).2 := ⟨by rw [hsame.run, hs.run], by rw [hsame.seq, hs.seq]⟩
  generalize entryBytes i s = e at hissuer hperm hfresh ⊢
  obtain ⟨bytes, u⟩ := e
  dsimp only at hissuer hperm hfresh ⊢
  rw [hissuer]
  cases hentry : entry bytes i with
  | enter p cs =>
    rw [Resumption.result, settled, List.append_nil]
    refine ⟨rfl, fun t p' ds ht => ?_⟩
    cases ht
    exact ⟨hfresh, entry_seqOk hperm hentry⟩
  | answer r =>
    have hrun : u.run.set s.issuer .idle = u.run := by rw [← hfresh.run, PerAgent.set_get]
    have hseq : u.seq.set s.issuer none = u.seq := by rw [← hfresh.seq, PerAgent.set_get]
    refine ⟨?_, fun t p' ds ht => by cases ht⟩
    simp [finish, State.setSeq, State.setRun, hrun, hseq, Resumption.result, settled, handed]

end Sys2Proof.Machine
end

section
/-! PROOFS. The statements of 20_memory.md. -/

namespace Sys2Proof.Proofs

open Sys2Proof Sys2Proof.Machine

/-- Settles O6: a turn of an agent that holds no operation goes through its port, one of a BUSY agent does
not. -/
theorem stepRunsDecodedCommand : Obligations.StepRunsDecodedCommand := by
  constructor
  · intro s a c rest ts i hfree hrun hport hdec
    exact ⟨fun hs => (step_run hfree hs).trans (agentTurn_command hrun hport hdec),
      fun hs => (step_event hfree hs).trans (agentTurn_command hrun hport hdec)⟩
  · rintro s a ts hfree hrun (hs | hs)
    · exact (step_run hfree hs).trans (agentTurn_busy hrun)
    · exact (step_event hfree hs).trans (agentTurn_busy hrun)

/-- Settles O8: the handler holds the block, so the step is its event, and no event touches another agent but
to wake it. -/
theorem preemptiveHandlerIsContiguous : Obligations.PreemptiveHandlerIsContiguous := by
  intro s hmode hrun hpow
  have hstep : step s = agentEvent .isr s := step_held (by simp [isrHolds, hmode, hrun]) hpow
  exact ⟨hstep, fun t ht => agentEvent_others (hstep ▸ ht)⟩

/-- Settles O9: an operation that is not run is answered without an event; any other is a run of events, part
after part, that ends as its meaning ends. -/
theorem eventRunEqualsMeaning : Obligations.EventRunEqualsMeaning := by
  intro i s hwf hrun hseq
  by_cases hready : ready i s
  · obtain ⟨hstart, hlegal⟩ := startOp_of_ready hready ⟨hrun, hseq⟩
    obtain ⟨n, hn⟩ := (begun_leads s.issuer hwf s).eventTurns_eq hlegal
    exact ⟨n, by rw [startThenEvents_eq, hstart, hn, exec_of_ready hready]⟩
  · refine ⟨0, ?_⟩
    rw [startThenEvents_eq, eventTurns_zero, exec_eq_perform]
    exact accept_of_not_ready hready _ _

/-- Settles O22: a store misses every slot of the content, a publish appends the slot of the write counter, a
consume drops the slot of the read counter, and no other event writes a ring. -/
theorem ringIsFifoQueue : Obligations.RingIsFifoQueue := by
  constructor
  · intro ch s hok
    simp only [ringOk, Bool.and_eq_true] at hok
    exact ⟨ringContent_length s ch,
      fun b hready hroom => execPush_content hok.1 hready ((isFullNow_false_iff s ch).2 hroom),
      fun hready hdata => execPop_content hready ((isEmptyNow_false_iff s ch).2 (Nat.pos_of_ne_zero hdata)),
      fun hready hdata => execPeek_content hready ((isEmptyNow_false_iff s ch).2 (Nat.pos_of_ne_zero hdata))⟩
  · rintro a ⟨p, cs⟩ s t ch hs hrun hq h
    have hpos : posOk s (!cs.isEmpty) p = true := posOk_of_busy hs hrun hq
    refine ⟨agentEvent_content hs hrun hq h, ?_, ?_, ?_, ?_, ?_⟩
    · rintro b w rfl
      exact agentEvent_push4 hpos hq h
    · rintro b w rfl
      exact agentEvent_push5 hpos hq h
    · rintro r b rfl
      exact agentEvent_pop5 hpos hq h
    · rintro r rfl
      exact agentEvent_peek4 hpos hq h
    · rintro b rfl
      exact agentEvent_txBurst3 hpos hq h

end Sys2Proof.Proofs
end

section
/-! SUPPORT. The decoder format by format (30_encoding.md R91 to R94): which words a format accepts, which operation
it reads in them, and which mask and match say the same. -/

namespace Sys2Proof.Laws

/-! ### A command word is its four fields -/

theorem fields_append (w : Word) : opcField w ++ z1Field w ++ chField w ++ argField w = w := by
  unfold opcField z1Field chField argField
  rw [BitVec.extractLsb'_append_extractLsb'_eq_extractLsb' (show 24 = 17 + 7 from rfl),
    BitVec.extractLsb'_append_extractLsb'_eq_extractLsb' (show 17 = 16 + 1 from rfl),
    BitVec.extractLsb'_append_extractLsb'_eq_extractLsb' (show 16 = 0 + 16 from rfl)]
  exact BitVec.extractLsb'_eq_self

theorem word_ext_iff {v w : Word} : v = w ↔
    opcField v = opcField w ∧ z1Field v = z1Field w ∧ chField v = chField w ∧ argField v = argField w := by
  constructor
  · rintro rfl
    exact ⟨rfl, rfl, rfl, rfl⟩
  · rintro ⟨hopc, hz1, hch, harg⟩
    rw [← fields_append v, ← fields_append w, hopc, hz1, hch, harg]

theorem eq_commandWord_iff {w : Word} {opc : BitVec 8} {ch : Chan} {arg : BitVec 16} :
    w = commandWord opc ch arg ↔
      opcField w = opc ∧ z1Field w = 0 ∧ chField w = bitOfChan ch ∧ argField w = arg := by
  rw [word_ext_iff, opcField_commandWord, z1Field_commandWord, chField_commandWord, argField_commandWord]

theorem opcField_and (v w : Word) : opcField (v &&& w) = opcField v &&& opcField w := BitVec.extractLsb'_and

theorem z1Field_and (v w : Word) : z1Field (v &&& w) = z1Field v &&& z1Field w := BitVec.extractLsb'_and

theorem chField_and (v w : Word) : chField (v &&& w) = chField v &&& chField w := BitVec.extractLsb'_and

theorem argField_and (v w : Word) : argField (v &&& w) = argField v &&& argField w := BitVec.extractLsb'_and

theorem bitOfChan_chanOfBit (b : BitVec 1) : bitOfChan (chanOfBit b) = b := by
  revert b
  decide

theorem argHighField_append_byteField (w : Word) : argHighField w ++ byteField w = argField w :=
  BitVec.extractLsb'_append_extractLsb'_eq_extractLsb' (show 8 = 0 + 8 from rfl)

theorem argHighField_eq_zero_iff {w : Word} : argHighField w = 0 ↔ argField w = (byteField w).setWidth 16 := by
  have hwide : (byteField w).setWidth 16 = 0#8 ++ byteField w := BitVec.setWidth_eq_append (by decide)
  rw [← argHighField_append_byteField, hwide, BitVec.append_left_inj]
  rfl

theorem argField_and_eq_zero_iff {w : Word} : argField w &&& 0xFF00 = 0 ↔ argHighField w = 0 := by
  have hmask : argField w &&& 0xFF00 = argHighField w ++ (0 : BitVec 8) := by
    rw [← argHighField_append_byteField, show (0xFF00 : BitVec 16) = BitVec.allOnes 8 ++ 0#8 from rfl,
      BitVec.and_append, BitVec.and_allOnes, BitVec.and_zero]
    rfl
  rw [hmask]
  exact BitVec.append_left_inj (s₂ := 0) 0

theorem ite_error_eq_ok_iff {p : Prop} [Decidable p] {e : DecodeError} {x : Except DecodeError Instr} {i : Instr} :
    (if p then .error e else x) = .ok i ↔ ¬ p ∧ x = .ok i := by
  split_ifs <;> simp [*]

/-! ### The five formats -/

/-- A format with the operations of one row of the opcode map (R92, R93). -/
inductive Format
  | b (op : Chan → Byte → Instr)
  | c (op : Chan → Instr)
  | f (ch : Chan) (i : Instr)
  | l (ch : Chan) (op : Nat → Instr)
  | k (op : Chan → Index → Instr)

namespace Format

/-- The decoder of the format. -/
def decode : Format → Word → Except DecodeError Instr
  | b op, w => formatB w op
  | c op, w => formatC w op
  | f ch i, w => formatF w ch i
  | l ch op, w => formatL w ch op
  | k op, w => formatK w op

/-- What the format asks of the fields `CH` and `ARG`. -/
def Checks : Format → Word → Prop
  | b _, w => argHighField w = 0
  | c _, w => argField w = 0
  | f ch _, w => chField w = bitOfChan ch ∧ argField w = 0
  | l ch _, w => chField w = bitOfChan ch
  | k _, _ => True

/-- The operation whose operands stand in the fields of the word. -/
def read : Format → Word → Instr
  | b op, w => op (chanOfBit (chField w)) (byteField w)
  | c op, w => op (chanOfBit (chField w))
  | f _ i, _ => i
  | l _ op, w => op (argField w).toNat
  | k op, w => op (chanOfBit (chField w)) (argField w)

/-- The mask of the format (R94). -/
def mask : Format → Word
  | b _ => 0xFFFEFF00
  | c _ => 0xFFFEFFFF
  | f _ _ => 0xFFFFFFFF
  | l _ _ => 0xFFFF0000
  | k _ => 0xFFFE0000

/-- The match of the format for one opcode: the fixed channel where there is one, every operand zero (R94). -/
def pattern (opc : BitVec 8) : Format → Word
  | b _ => commandWord opc .rx 0
  | c _ => commandWord opc .rx 0
  | f ch _ => commandWord opc ch 0
  | l ch _ => commandWord opc ch 0
  | k _ => commandWord opc .rx 0

/-- A format accepts exactly the words that pass its tests, and reads its operands in their fields. -/
theorem decode_ok_iff {fmt : Format} {w : Word} {i : Instr} :
    fmt.decode w = .ok i ↔ z1Field w = 0 ∧ fmt.Checks w ∧ fmt.read w = i := by
  cases fmt <;>
    simp only [decode, formatB, formatC, formatF, formatL, formatK, Checks, read, ite_error_eq_ok_iff, ne_eq,
      not_not, Except.ok.injEq, and_assoc, true_and]

/-- The part of the mask over `CH`. -/
def chMask : Format → BitVec 1
  | b _ => 0
  | c _ => 0
  | f _ _ => BitVec.allOnes 1
  | l _ _ => BitVec.allOnes 1
  | k _ => 0

/-- The part of the mask over `ARG`. -/
def argMask : Format → BitVec 16
  | b _ => 0xFF00
  | c _ => BitVec.allOnes 16
  | f _ _ => BitVec.allOnes 16
  | l _ _ => 0
  | k _ => 0

theorem mask_fields (fmt : Format) :
    opcField fmt.mask = BitVec.allOnes 8 ∧ z1Field fmt.mask = BitVec.allOnes 7 ∧
      chField fmt.mask = fmt.chMask ∧ argField fmt.mask = fmt.argMask := by
  cases fmt <;> simp only [mask, chMask, argMask] <;> decide

theorem and_mask_eq_commandWord_iff {fmt : Format} {w : Word} {opc : BitVec 8} {ch : Chan} :
    w &&& fmt.mask = commandWord opc ch 0 ↔
      opcField w = opc ∧ z1Field w = 0 ∧
        chField w &&& fmt.chMask = bitOfChan ch ∧ argField w &&& fmt.argMask = 0 := by
  obtain ⟨hopc, hz1, hch, harg⟩ := mask_fields fmt
  rw [eq_commandWord_iff, opcField_and, z1Field_and, chField_and, argField_and, hopc, hz1, hch, harg,
    BitVec.and_allOnes, BitVec.and_allOnes]

/-- Mask and match say what the decoder tests: the opcode, `Z1` and the checks of the format. -/
theorem and_mask_eq_pattern_iff {fmt : Format} {opc : BitVec 8} {w : Word} :
    w &&& fmt.mask = fmt.pattern opc ↔ opcField w = opc ∧ z1Field w = 0 ∧ fmt.Checks w := by
  have hfree : chField w &&& 0 = bitOfChan .rx := BitVec.and_zero
  have hany : argField w &&& 0 = 0 := BitVec.and_zero
  cases fmt <;>
    simp only [pattern, and_mask_eq_commandWord_iff, chMask, argMask, Checks, hfree, hany, BitVec.and_allOnes,
      argField_and_eq_zero_iff, true_and, and_true]

end Format

end Sys2Proof.Laws
end

section
/-! SUPPORT. The opcode map (30_encoding.md R93) as one format for each operation, and what the decoder and the
encoder make of it. -/

namespace Sys2Proof.Laws

open EncodedFields (opcodeOf)

/-- The format of an operation's row: operations that differ only in their operands have the same. -/
def formatOf : Instr → Format
  | .push _ _ => .b .push
  | .pop _ => .c .pop
  | .peek _ => .c .peek
  | .used _ => .c .used
  | .isFull _ => .c .isFull
  | .isEmpty _ => .c .isEmpty
  | .cap _ => .c .cap
  | .snap _ => .c .snap
  | .fcTxt => .f .tx .fcTxt
  | .fcTxi => .f .tx .fcTxi
  | .fcRxt => .f .rx .fcRxt
  | .fcRxi => .f .rx .fcRxi
  | .isr => .f .rx .isr
  | .errChk => .f .rx .errChk
  | .rxBurst => .f .rx .rxBurst
  | .txBurst => .f .tx .txBurst
  | .wrnb _ => .l .tx .wrnb
  | .write _ => .l .tx .write
  | .rdnb _ => .l .rx .rdnb
  | .read _ => .l .rx .read
  | .raise _ => .c .raise
  | .wait _ => .c .wait
  | .wreset _ => .c .wreset
  | .tarm => .f .rx .tarm
  | .tstop => .f .rx .tstop
  | .tfire => .f .rx .tfire
  | .construct _ _ => .k .construct
  | .setup => .f .rx .setup

/-- One operation for each row of the opcode map, in its order. -/
def rowInstrs : List Instr :=
  [.push .rx 0, .pop .rx, .peek .rx, .used .rx, .isFull .rx, .isEmpty .rx, .cap .rx, .snap .rx,
    .fcTxt, .fcTxi, .fcRxt, .fcRxi, .isr, .errChk, .rxBurst, .txBurst, .wrnb 0, .write 0, .rdnb 0, .read 0,
    .raise .rx, .wait .rx, .wreset .rx, .tarm, .tstop, .tfire, .construct .rx 0, .setup]

/-! ### The decoder -/

/-- A word with the opcode of an operation is decoded by the operation's format. -/
theorem decode_of_opcField {w : Word} {k : Instr} (h : opcField w = opcodeOf k) :
    decode w = (formatOf k).decode w := by
  rw [decode, h]
  cases k <;> rfl

/-- Every other opcode is reserved (R96). -/
theorem decode_of_reserved {w : Word} (h : (opcField w).toNat ∉ rowInstrs.map fun k => (opcodeOf k).toNat) :
    decode w = .error .reservedOpcode := by
  unfold decode
  split
  case h_29 => rfl
  all_goals
    next hopc =>
      rw [hopc] at h
      exact absurd (by decide) h

/-! ### The encoder -/

theorem opcField_encode (i : Instr) : opcField (encode i) = opcodeOf i := by
  cases i <;> exact opcField_commandWord ..

theorem z1Field_encode (i : Instr) : z1Field (encode i) = 0 := by
  cases i <;> exact z1Field_commandWord ..

theorem byteField_commandWord_setWidth (opc : BitVec 8) (ch : Chan) (b : Byte) :
    byteField (commandWord opc ch (b.setWidth 16)) = b := by
  rw [byteField_eq, argField_commandWord, BitVec.setWidth_setWidth_of_le _ (by decide), BitVec.setWidth_eq]

theorem checks_encode (i : Instr) : (formatOf i).Checks (encode i) := by
  cases i with
  | push ch b =>
    refine argHighField_eq_zero_iff.2 ?_
    rw [encode, argField_commandWord, byteField_commandWord_setWidth]
  | pop | peek | used | isFull | isEmpty | cap | snap | raise | wait | wreset => exact argField_commandWord ..
  | fcTxt | fcTxi | fcRxt | fcRxi | isr | errChk | rxBurst | txBurst | tarm | tstop | tfire | setup =>
    exact ⟨chField_commandWord .., argField_commandWord ..⟩
  | wrnb | write | rdnb | read => exact chField_commandWord ..
  | construct => trivial

theorem read_encode {i : Instr} (hwf : i.wellFormed = true) : (formatOf i).read (encode i) = i := by
  cases i with
  | push ch b =>
    rw [formatOf, Format.read, encode, chField_commandWord, chanOfBit_bitOfChan, byteField_commandWord_setWidth]
  | pop | peek | used | isFull | isEmpty | cap | snap | raise | wait | wreset =>
    rw [formatOf, Format.read, encode, chField_commandWord, chanOfBit_bitOfChan]
  | fcTxt | fcTxi | fcRxt | fcRxi | isr | errChk | rxBurst | txBurst | tarm | tstop | tfire | setup => rfl
  | wrnb len | write len | rdnb len | read len =>
    have hlen : len < 2 ^ 16 := of_decide_eq_true hwf
    rw [formatOf, Format.read, encode, argField_commandWord, BitVec.toNat_ofNat, Nat.mod_eq_of_lt hlen]
  | construct ch capv =>
    rw [formatOf, Format.read, encode, chField_commandWord, chanOfBit_bitOfChan, argField_commandWord]

/-- The encoding of an operation is decoded by its own format to itself. -/
theorem decode_encode {i : Instr} (hwf : i.wellFormed = true) : decode (encode i) = .ok i := by
  rw [decode_of_opcField (opcField_encode i), Format.decode_ok_iff]
  exact ⟨z1Field_encode i, checks_encode i, read_encode hwf⟩

/-! ### The match and mask table (R94) -/

/-- The row of an operation in the table. -/
def rowOf (k : Instr) : OpcodeRow := ⟨k.mnemonic, (formatOf k).mask, (formatOf k).pattern (opcodeOf k)⟩

theorem opcodeRows_eq : opcodeRows = rowInstrs.map rowOf := by decide

theorem rowInstrs_mnemonic_nodup : (rowInstrs.map Instr.mnemonic).Nodup := by decide

theorem selects_rowOf_iff {w : Word} {k : Instr} :
    (rowOf k).selects w = true ↔ opcField w = opcodeOf k ∧ z1Field w = 0 ∧ (formatOf k).Checks w := by
  rw [OpcodeRow.selects, beq_iff_eq, rowOf, Format.and_mask_eq_pattern_iff]

theorem decode_of_selects {w : Word} {k : Instr} (h : (rowOf k).selects w = true) :
    decode w = .ok ((formatOf k).read w) := by
  obtain ⟨hopc, hz1, hchecks⟩ := selects_rowOf_iff.1 h
  rw [decode_of_opcField hopc, Format.decode_ok_iff]
  exact ⟨hz1, hchecks, rfl⟩

theorem exists_row_of_decode_ok {w : Word} {i : Instr} (h : decode w = .ok i) :
    ∃ k ∈ rowInstrs, (rowOf k).selects w = true ∧ (formatOf k).read w = i := by
  by_cases hmem : (opcField w).toNat ∈ rowInstrs.map fun k => (opcodeOf k).toNat
  · obtain ⟨k, hk, hnum⟩ := List.mem_map.1 hmem
    have hopc : opcField w = opcodeOf k := BitVec.eq_of_toNat_eq hnum.symm
    rw [decode_of_opcField hopc, Format.decode_ok_iff] at h
    obtain ⟨hz1, hchecks, hread⟩ := h
    exact ⟨k, hk, selects_rowOf_iff.2 ⟨hopc, hz1, hchecks⟩, hread⟩
  · rw [decode_of_reserved hmem] at h
    cases h

theorem read_mnemonic (k : Instr) (w : Word) : ((formatOf k).read w).mnemonic = k.mnemonic := by
  cases k <;> rfl

/-- What stands in a word that a row selects: the encoding of the operation read in it, and nothing else. -/
theorem read_of_selects {w : Word} {k : Instr} (h : (rowOf k).selects w = true) :
    ((formatOf k).read w).wellFormed = true ∧ w = encode ((formatOf k).read w) := by
  obtain ⟨hopc, hz1, hchecks⟩ := selects_rowOf_iff.1 h
  have hch : chField w = bitOfChan (chanOfBit (chField w)) := (bitOfChan_chanOfBit _).symm
  cases k with
  | push =>
    exact ⟨rfl, eq_commandWord_iff.2 ⟨hopc, hz1, hch, argHighField_eq_zero_iff.1 hchecks⟩⟩
  | pop | peek | used | isFull | isEmpty | cap | snap | raise | wait | wreset =>
    exact ⟨rfl, eq_commandWord_iff.2 ⟨hopc, hz1, hch, hchecks⟩⟩
  | fcTxt | fcTxi | fcRxt | fcRxi | isr | errChk | rxBurst | txBurst | tarm | tstop | tfire | setup =>
    exact ⟨rfl, eq_commandWord_iff.2 ⟨hopc, hz1, hchecks.1, hchecks.2⟩⟩
  | wrnb | write | rdnb | read =>
    have hfits : lenFits (argField w).toNat = true := decide_eq_true (argField w).isLt
    have hlen : argField w = BitVec.ofNat 16 (argField w).toNat := by simp
    exact ⟨hfits, eq_commandWord_iff.2 ⟨hopc, hz1, hchecks, hlen⟩⟩
  | construct => exact ⟨rfl, eq_commandWord_iff.2 ⟨hopc, hz1, hch, rfl⟩⟩

theorem selects_iff_decode {w : Word} {k : Instr} (hk : k ∈ rowInstrs) :
    (rowOf k).selects w = true ↔ ∃ i, decode w = .ok i ∧ i.mnemonic = k.mnemonic := by
  constructor
  · intro h
    exact ⟨_, decode_of_selects h, read_mnemonic k w⟩
  · rintro ⟨i, hdec, hname⟩
    obtain ⟨l, hl, hsel, rfl⟩ := exists_row_of_decode_ok hdec
    rw [read_mnemonic] at hname
    rwa [← List.inj_on_of_nodup_map rowInstrs_mnemonic_nodup hl hk hname]

theorem opcodeRows_selects_iff {w : Word} {row : OpcodeRow} (hrow : row ∈ opcodeRows) :
    row.selects w = true ↔ ∃ i, decode w = .ok i ∧ i.mnemonic = row.mnemonic := by
  rw [opcodeRows_eq] at hrow
  obtain ⟨k, hk, rfl⟩ := List.mem_map.1 hrow
  exact selects_iff_decode hk

/-- No word has two mnemonics, so no word selects two rows. -/
theorem opcodeRows_disjoint :
    opcodeRows.Pairwise fun p q => ∀ w, ¬(p.selects w = true ∧ q.selects w = true) := by
  have hnames : opcodeRows.Pairwise fun p q => p.mnemonic ≠ q.mnemonic := by
    rw [opcodeRows_eq, List.pairwise_map]
    exact List.pairwise_map.1 rowInstrs_mnemonic_nodup
  refine hnames.imp_of_mem fun hp hq hne w ⟨hpw, hqw⟩ => ?_
  obtain ⟨i, hi, hip⟩ := (opcodeRows_selects_iff hp).1 hpw
  obtain ⟨j, hj, hjq⟩ := (opcodeRows_selects_iff hq).1 hqw
  obtain rfl : i = j := Except.ok.inj (hi.symm.trans hj)
  exact hne (hip.symm.trans hjq)

end Sys2Proof.Laws
end

section
/-! SUPPORT. What a port answers to a command that does not run (30_encoding.md R96, R97), and what placing a command
word leaves as it was (R90, R95). -/

namespace Sys2Proof.Machine

/-! ### Response words -/

theorem word_fields (r : Reply) :
    r.word.extractLsb' 28 4 = r.status.number ∧ r.word.extractLsb' 16 12 = 0 ∧
      r.word.extractLsb' 0 16 = r.value := by
  unfold Reply.word
  refine ⟨?_, ?_, BitVec.extractLsb'_append_eq_right⟩
  · exact (BitVec.extractLsb'_append_eq_of_le (by decide)).trans BitVec.extractLsb'_append_eq_left
  · exact (BitVec.extractLsb'_append_eq_of_le (by decide)).trans BitVec.extractLsb'_append_eq_right

theorem status_number_le (st : Status) : st.number.toNat ≤ 4 := by
  cases st <;> decide

theorem rejected_unconstructed_word : (Reply.rejected 4).word = 0x30000004 := by decide

theorem faultOf_word (code : ViolationCode) :
    (Reply.faultOf code).word = 0x20000000 ||| code.number.setWidth 32 := by
  cases code <;> decide

/-! ### Commands that do not run -/

theorem exec_halted {i : Instr} {s : State} (hacc : accepts s.issuer i = true)
    (hrun : s.run.get s.issuer = .halted) : exec i s = .next (s.respond s.issuer s.haltedReply) := by
  simp [exec_eq_perform, perform, accept, hacc, hrun]

theorem exec_unconstructed {i : Instr} {s : State} (hacc : accepts s.issuer i = true)
    (hrun : s.run.get s.issuer ≠ .halted) (hneeds : needsConstruct i s = true) :
    exec i s = .next (s.respond s.issuer (Reply.rejected 4)) := by
  simp [exec_eq_perform, perform, accept, hacc, hrun, hneeds]

theorem needsConstruct_of_mem {i : Instr} {s : State} {ch : Chan} (hch : ch ∈ channelsNeeded i)
    (hcap : s.cap.get ch = 0) : needsConstruct i s = true :=
  List.any_eq_true.2 ⟨ch, hch, beq_iff_eq.2 hcap⟩

/-! ### Placing a command word -/

theorem accepts_acceptingPort (i : Instr) : accepts (acceptingPort i) i = true := by
  cases i with
  | push ch | pop ch | peek ch | used ch | isFull ch | isEmpty ch | cap ch | snap ch | raise ch | wait ch | wreset ch
    | construct ch => cases ch <;> rfl
  | _ => rfl

/-- The port of an agent that can take a command: no operation is in progress there. -/
def PortFree (s : State) (a : Agent) : Prop := s.run.get a = .idle ∨ s.run.get a = .halted

theorem freeAgent_frame (s : State) (a : Agent) :
    ∃ run seq wake, freeAgent s a = { s with run := run, seq := seq, wake := wake } := by
  unfold freeAgent
  split
  · exact ⟨_, _, _, rfl⟩
  · exact ⟨_, _, _, rfl⟩
  · exact ⟨_, _, _, rfl⟩
  · dsimp only
    split_ifs <;> exact ⟨_, _, _, rfl⟩

theorem freeAgent_run (s : State) (a : Agent) :
    freeAgent s a = s ∧ PortFree s a ∨ (freeAgent s a).run = s.run.set a .idle := by
  unfold freeAgent
  split
  · next h => exact .inl ⟨rfl, .inl h⟩
  · next h => exact .inl ⟨rfl, .inr h⟩
  · exact .inr rfl
  · dsimp only
    split_ifs <;> exact .inr rfl

theorem portFree_freeAgent {s : State} {a b : Agent} (h : b = a ∨ PortFree s b) : PortFree (freeAgent s a) b := by
  rcases freeAgent_run s a with ⟨hsame, hfree⟩ | hrun
  · rw [hsame]
    exact h.elim (fun hba => hba ▸ hfree) id
  · rw [PortFree, hrun, PerAgent.get_set]
    split_ifs with hba
    · exact .inl rfl
    · exact h.resolve_left hba

theorem not_isrHolds_of_portFree {s : State} (h : PortFree s .isr) : isrHolds s = false := by
  rcases h with h | h <;> simp [isrHolds, h]

/-- The state with a command word placed: its port and the handler are free, the word is first there, and only these
fields and the wake signals can differ from what they were. -/
theorem withFetchWord_eq {w : Word} {i : Instr} (hdec : decode w = .ok i) (s : State) :
    ∃ run seq wake,
      s.withFetchWord 32 w.toNat =
        { s with
          run := run, seq := seq, wake := wake
          ports := s.ports.set (acceptingPort i) (⟨w, []⟩ :: s.ports.get (acceptingPort i))
          sched := .run (acceptingPort i) :: s.sched } ∧
      ∀ b, b = acceptingPort i ∨ b = .isr → PortFree (s.withFetchWord 32 w.toNat) b := by
  have hword : BitVec.ofNat 32 (w.toNat % 2 ^ 32) = w := by
    rw [Nat.mod_eq_of_lt w.isLt, BitVec.ofNat_toNat, BitVec.setWidth_eq]
  have hport : portFor w = acceptingPort i := by rw [portFor, hdec]
  have hfree : ∀ b, b = acceptingPort i ∨ b = .isr → PortFree (freeAgent (freeAgent s .isr) (acceptingPort i)) b :=
    fun b hb => portFree_freeAgent (hb.imp_right fun h => portFree_freeAgent (.inl h))
  obtain ⟨run₁, seq₁, wake₁, h₁⟩ := freeAgent_frame s .isr
  obtain ⟨run, seq, wake, h⟩ := freeAgent_frame (freeAgent s .isr) (acceptingPort i)
  rw [State.withFetchWord, hword, placeCommand, hport]
  refine ⟨run, seq, wake, ?_, hfree⟩
  rw [h, h₁]

end Sys2Proof.Machine
end

section
/-! PROOFS. The statements of 30_encoding.md. -/

namespace Sys2Proof.Proofs

open Sys2Proof Sys2Proof.Machine Sys2Proof.Laws

/-- Settles O1: the encoding has the opcode of the operation's row, passes the tests of its format, and carries every
operand in the field it is read from. -/
theorem decodeOfEncode : Obligations.DecodeOfEncode := fun _ => decode_encode

/-- Settles O2: an accepted word is selected by a row, and a selected word has no bit but those its row fixes and
those its operands are read from. -/
theorem encodeOfDecode : Obligations.EncodeOfDecode := by
  intro w i hdec
  obtain ⟨k, -, hsel, rfl⟩ := exists_row_of_decode_ok hdec
  obtain ⟨hwf, hword⟩ := read_of_selects hsel
  exact ⟨hwf, hword.symm⟩

/-- Settles O3: mask and match say what the decoder tests, and the mnemonics of the rows differ. -/
theorem matchMaskSelectsOperation : Obligations.MatchMaskSelectsOperation := by
  refine ⟨fun w row hrow => opcodeRows_selects_iff hrow, fun w i hdec => ?_, opcodeRows_disjoint, rfl⟩
  obtain ⟨k, hk, hsel, -⟩ := exists_row_of_decode_ok hdec
  exact ⟨rowOf k, opcodeRows_eq ▸ List.mem_map_of_mem hk, hsel⟩

/-- Settles O5: the word is its three fields side by side, and no status has a number above 4. -/
theorem responseWordFields : Obligations.ResponseWordFields := by
  intro r
  obtain ⟨hstatus, hzero, hvalue⟩ := word_fields r
  exact ⟨hstatus, hzero, hvalue, status_number_le r.status⟩

/-- Settles O14: the halted test comes before everything but the port's own, and the answer is the stored code. -/
theorem haltedPortAnswersStoredCode : Obligations.HaltedPortAnswersStoredCode := by
  intro i s v hacc hrun hfault
  have hreply : s.haltedReply = Reply.faultOf v.code := by rw [State.haltedReply, hfault]
  rw [exec_halted hacc hrun, hreply, State.respond, faultOf_word]
  rfl

/-- Settles O15: one channel of capacity 0 among those the operation needs is enough to reject it. -/
theorem unconstructedChannelRejected : Obligations.UnconstructedChannelRejected := by
  intro i s ch hacc hrun hch hcap
  rw [exec_unconstructed hacc hrun (needsConstruct_of_mem hch hcap), State.respond,
    rejected_unconstructed_word]
  rfl

/-- Settles O4: the decoder run on each of the words, and the words of the five replies. -/
theorem workedEncodings : Obligations.WorkedEncodings := by
  refine ⟨⟨rfl, rfl, rfl, rfl, rfl, rfl, rfl, rfl, rfl, rfl⟩, ⟨rfl, rfl, rfl, rfl, rfl, rfl, rfl, rfl⟩,
    ⟨rfl, rfl, rfl, rfl, rfl, rfl, rfl, rfl, rfl, rfl, rfl, rfl, rfl⟩, ?_⟩
  decide

/-- Settles O12: after the placing the port and the handler are free, so the step is a `run` turn that takes the placed
word (O6), and the placing writes no field of the block but `run`, `seq` and `wake`. -/
theorem placedWordRunsNext : Obligations.PlacedWordRunsNext := by
  intro s w i hdec
  obtain ⟨run, seq, wake, hplaced, hfree⟩ := withFetchWord_eq hdec s
  have hports : (s.withFetchWord 32 w.toNat).ports.get (acceptingPort i) =
      ⟨w, []⟩ :: s.ports.get (acceptingPort i) := by
    rw [hplaced]
    exact PerAgent.get_set_same ..
  have hsched : (s.withFetchWord 32 w.toNat).sched = .run (acceptingPort i) :: s.sched := by rw [hplaced]
  have hrun := stepRunsDecodedCommand.1 _ _ _ _ s.sched i (not_isrHolds_of_portFree (hfree .isr (.inr rfl)))
    (hfree _ (.inl rfl)) hports hdec
  refine ⟨_, hrun.1 hsched, accepts_acceptingPort i, rfl, hfree _ (.inl rfl), ?_⟩
  rw [hplaced]
  exact ⟨rfl, rfl, rfl, rfl, rfl, rfl, rfl, rfl, rfl, rfl, rfl, rfl, rfl, rfl, rfl⟩

end Sys2Proof.Proofs
end

section
/-! SUPPORT. The ring primitives as commands (40_ring_primitives.md R120 to R127): the exact next state where the
operation runs, and every next state there is. -/

namespace Sys2Proof.Machine

/-! ### A command that answers -/

/-- A next state comes from an answer of 30_encoding.md R96, which writes nothing but the response, or from the
operation's own rule. -/
theorem exec_answered_or_ready {i : Instr} {s t : State} (h : exec i s = .next t) :
    (∃ r, t = s.respond s.issuer r) ∨
      (ready i s ∧ complete s.issuer (meaning i s.issuer s) = .next t) := by
  rw [exec_eq_perform] at h
  rcases accept_cases _ _ _ _ h with ⟨-, ho⟩ | ⟨-, -, ho⟩ | ⟨-, -, -, ho⟩ | ⟨hready, ho⟩ | ⟨-, -, -, -, ho⟩
  · cases ho
    exact .inl ⟨_, rfl⟩
  · cases ho
    exact .inl ⟨_, rfl⟩
  · cases ho
    exact .inl ⟨_, rfl⟩
  · exact .inr ⟨hready, ho.symm⟩
  · cases ho

theorem exec_of_reply {i : Instr} {s t : State} {r : Reply} (hready : ready i s)
    (hreply : meaning i s.issuer s = .reply t r) : exec i s = .next (t.respond s.issuer r) := by
  rw [exec_of_ready hready, hreply, complete_reply]

/-- An operation that only reads the state answers and writes nothing else, also where R96 answers for it. -/
theorem exec_answered_of_reply {i : Instr} {s t : State} {r : Reply} (hreply : meaning i s.issuer s = .reply s r)
    (h : exec i s = .next t) : ∃ r, t = s.respond s.issuer r := by
  rcases exec_answered_or_ready h with hans | ⟨-, hdone⟩
  · exact hans
  · rw [hreply, complete_reply] at hdone
    cases hdone
    exact ⟨r, rfl⟩

theorem okBool_word (b : Bool) : (Reply.okBool b).word = if b then 1 else 0 := by
  cases b <;> decide

section RingPrimitives

variable {s t : State} {ch : Chan} {b : Byte}

theorem isEmptyNow_false_of_ne (h : s.widx.get ch ≠ s.ridx.get ch) : isEmptyNow s ch = false :=
  Bool.eq_false_iff.2 fun he => h ((emptyAt_iff ..).1 he)

/-! ### `PUSH`, `POP` and `PEEK` that run -/

theorem execPush_of_room (hready : ready (.push ch b) s) (hroom : isFullNow s ch = false) :
    exec (.push ch b) s =
      .next (((s.memWrite ch (slotOf (s.widx.get ch) (s.cap.get ch)) b).setWidx ch (inc16 (s.widx.get ch))).respond
        s.issuer Reply.ok0) :=
  exec_of_reply hready (pushOp_of_room ch b _ s hroom)

theorem execPop_of_data (hready : ready (.pop ch) s) (hdata : isEmptyNow s ch = false) :
    exec (.pop ch) s =
      .next ((s.setRidx ch (inc16 (s.ridx.get ch))).respond s.issuer
        (Reply.okVal ((s.memRead ch (slotOf (s.ridx.get ch) (s.cap.get ch))).setWidth 16))) :=
  exec_of_reply hready (popOp_of_data ch _ s hdata)

theorem execPeek_of_data (hready : ready (.peek ch) s) (hdata : isEmptyNow s ch = false) :
    exec (.peek ch) s =
      .next (s.respond s.issuer
        (Reply.okVal ((s.memRead ch (slotOf (s.ridx.get ch) (s.cap.get ch))).setWidth 16))) :=
  exec_of_reply hready (peekOp_of_data ch _ s hdata)

/-- A port that accepts `PEEK` accepts the `POP` that follows (30_encoding.md R95). -/
theorem ready_pop_of_ready_peek (h : ready (.peek ch) s) : ready (.pop ch) s := h

/-! ### Every next state of `PUSH`, `POP` and `PEEK` -/

theorem execPush_cases (h : exec (.push ch b) s = .next t) :
    (∃ r, t = s.respond s.issuer r) ∨
    (isFullNow s ch = false ∧
      t = ((s.memWrite ch (slotOf (s.widx.get ch) (s.cap.get ch)) b).setWidx ch (inc16 (s.widx.get ch))).respond
        s.issuer Reply.ok0) ∨
    (isFullNow s ch = true ∧
      t = (s.violation s.issuer .pushFull ch).respond s.issuer (Reply.faultOf .pushFull)) := by
  rcases exec_answered_or_ready h with hans | ⟨-, hdone⟩
  · exact .inl hans
  · cases hfull : isFullNow s ch with
    | false =>
      rw [meaning, pushOp_of_room ch b _ s hfull] at hdone
      cases hdone
      exact .inr (.inl ⟨rfl, rfl⟩)
    | true =>
      rw [meaning, pushOp_of_full ch b _ s hfull] at hdone
      cases hdone
      exact .inr (.inr ⟨rfl, rfl⟩)

theorem execPop_cases (h : exec (.pop ch) s = .next t) :
    (∃ r, t = s.respond s.issuer r) ∨
    (isEmptyNow s ch = false ∧
      t = (s.setRidx ch (inc16 (s.ridx.get ch))).respond s.issuer
        (Reply.okVal ((s.memRead ch (slotOf (s.ridx.get ch) (s.cap.get ch))).setWidth 16))) ∨
    (isEmptyNow s ch = true ∧
      t = (s.violation s.issuer .popEmpty ch).respond s.issuer (Reply.faultOf .popEmpty)) := by
  rcases exec_answered_or_ready h with hans | ⟨-, hdone⟩
  · exact .inl hans
  · cases hempty : isEmptyNow s ch with
    | false =>
      rw [meaning, popOp_of_data ch _ s hempty] at hdone
      cases hdone
      exact .inr (.inl ⟨rfl, rfl⟩)
    | true =>
      rw [meaning, popOp_of_empty ch _ s hempty] at hdone
      cases hdone
      exact .inr (.inr ⟨rfl, rfl⟩)

theorem execPeek_cases (h : exec (.peek ch) s = .next t) :
    (∃ r, t = s.respond s.issuer r) ∨
    (isEmptyNow s ch = true ∧
      t = (s.violation s.issuer .peekEmpty ch).respond s.issuer (Reply.faultOf .peekEmpty)) := by
  cases hempty : isEmptyNow s ch with
  | false => exact .inl (exec_answered_of_reply (i := .peek ch) (peekOp_of_data ch _ s hempty) h)
  | true =>
    rcases exec_answered_or_ready h with hans | ⟨-, hdone⟩
    · exact .inl hans
    · rw [meaning, peekOp_of_empty ch _ s hempty] at hdone
      cases hdone
      exact .inr ⟨rfl, rfl⟩

/-! ### The queries and `CAP` -/

theorem queryReply_full_word (w r cap : Index) :
    (queryReply .full w r cap).word = if cap.toNat ≤ (w - r).toNat then 1 else 0 :=
  (okBool_word _).trans (if_congr (fullAt_iff w r cap) rfl rfl)

theorem queryReply_empty_word (w r cap : Index) :
    (queryReply .empty w r cap).word = if w = r then 1 else 0 :=
  (okBool_word _).trans (if_congr (emptyAt_iff w r) rfl rfl)

/-- The operations that answer from the counters and the capacity alone. -/
theorem execQuery_answered {i : Instr} (hi : i ∈ ([.used ch, .isFull ch, .isEmpty ch, .cap ch] : List Instr))
    (h : exec i s = .next t) : ∃ r, t = s.respond s.issuer r := by
  simp only [List.mem_cons, List.not_mem_nil, or_false] at hi
  rcases hi with rfl | rfl | rfl | rfl
  · exact exec_answered_of_reply (i := .used ch) rfl h
  · exact exec_answered_of_reply (i := .isFull ch) rfl h
  · exact exec_answered_of_reply (i := .isEmpty ch) rfl h
  · exact exec_answered_of_reply (i := .cap ch) rfl h

end RingPrimitives

end Sys2Proof.Machine
end

section
/-! PROOFS. The statements of 40_ring_primitives.md. -/

namespace Sys2Proof.Proofs

open Sys2Proof Sys2Proof.Machine

/-- Settles O17: the store goes to the slot of the write counter, and only the counter is written after it. -/
theorem pushStoresAndAdvances : Obligations.PushStoresAndAdvances := by
  intro ch b s hready hroom
  refine ⟨_, execPush_of_room hready ((isFullNow_false_iff s ch).2 hroom), memRead_memWrite_same .., rfl, rfl, rfl, ?_⟩
  rw [State.respond_responses, ok0_word]
  rfl

/-- Settles O18: counters that differ mean data, and the response word of a byte is the byte. -/
theorem popReturnsByteAndAdvances : Obligations.PopReturnsByteAndAdvances := by
  intro ch s hready hne
  rw [execPop_of_data hready (isEmptyNow_false_of_ne hne), State.respond, okVal_byte_word]
  rfl

/-- Settles O19: `PEEK` leaves everything the `POP` after it reads, so O18 gives the word of both. -/
theorem peekReturnsByteAndPopAgrees : Obligations.PeekReturnsByteAndPopAgrees := by
  intro ch s hready hne
  have hpeek := execPeek_of_data hready (isEmptyNow_false_of_ne hne)
  rw [State.respond, okVal_byte_word] at hpeek
  exact ⟨_, _, _, rfl, hpeek, rfl,
    popReturnsByteAndAdvances ch _ (ready_pop_of_ready_peek (s := { s with responses := _ }) hready) hne, rfl⟩

/-- Settles O21: each query is ready, so it completes with its reply, whose word is the value it computed. -/
theorem queriesAnswerFromCounters : Obligations.QueriesAnswerFromCounters := by
  intro ch s
  refine ⟨fun hready => ?_, fun hready => ?_, fun hready => ?_, fun hready => ?_⟩
  · rw [exec_of_reply hready rfl, State.respond, queryReply, okVal_word]
    rfl
  · rw [exec_of_reply hready rfl, State.respond, queryReply_full_word]
    rfl
  · rw [exec_of_reply hready rfl, State.respond, queryReply_empty_word]
    rfl
  · rw [exec_of_reply hready rfl, State.respond, okVal_word]
    rfl

/-- Settles O44: a query only answers, and `PEEK` does so too unless the ring is empty, where it writes what a
violation writes. -/
theorem queryFrame : Obligations.QueryFrame := by
  intro ch s t
  constructor
  · intro i hi h
    obtain ⟨r, rfl⟩ := execQuery_answered hi h
    exact ⟨rfl, fun _ _ => rfl⟩
  · intro h
    rcases execPeek_cases h with ⟨r, rfl⟩ | ⟨hempty, rfl⟩
    · exact ⟨rfl, fun _ => ⟨rfl, rfl⟩, fun _ _ => rfl, fun _ _ => rfl⟩
    · exact ⟨rfl, fun hne => absurd ((emptyAt_iff ..).1 hempty) hne, fun _ ha => PerAgent.get_set_ne _ _ _ _ ha,
        fun _ _ => rfl⟩

/-- Settles O45: an answer of R96 writes nothing else; with room or data the operation writes its slot and its
counter, without it what a violation writes. -/
theorem pushPopFrame : Obligations.PushPopFrame := by
  intro ch s t
  constructor
  · intro b h
    rcases execPush_cases h with ⟨r, rfl⟩ | ⟨hroom, rfl⟩ | ⟨hfull, rfl⟩
    · exact ⟨rfl, fun _ _ => rfl, fun _ _ => rfl, fun _ _ _ => rfl, fun _ => ⟨rfl, rfl⟩, fun _ => ⟨rfl, rfl⟩⟩
    · have hlt := (isFullNow_false_iff s ch).1 hroom
      exact ⟨rfl, fun _ hd => PerChan.get_set_ne _ _ _ _ hd, fun _ _ => rfl,
        fun _ _ hne => memRead_memWrite_other _ _ _ _ _ _ hne, fun _ => ⟨rfl, rfl⟩, fun hle => absurd hlt hle.not_gt⟩
    · have hle := (isFullNow_iff s ch).1 hfull
      exact ⟨rfl, fun _ _ => rfl, fun _ ha => PerAgent.get_set_ne _ _ _ _ ha, fun _ _ _ => rfl,
        fun hlt => absurd hlt hle.not_gt, fun _ => ⟨rfl, rfl⟩⟩
  · intro h
    rcases execPop_cases h with ⟨r, rfl⟩ | ⟨hdata, rfl⟩ | ⟨hempty, rfl⟩
    · exact ⟨rfl, fun _ _ => rfl, fun _ _ => rfl, fun _ _ => rfl, fun _ => ⟨rfl, rfl⟩, fun _ => rfl⟩
    · have hpos := (isEmptyNow_false_iff s ch).1 hdata
      exact ⟨rfl, fun _ hd => PerChan.get_set_ne _ _ _ _ hd, fun _ _ => rfl, fun _ _ => rfl, fun _ => ⟨rfl, rfl⟩,
        fun h0 => absurd h0 hpos.ne'⟩
    · have h0 := (isEmptyNow_iff s ch).1 hempty
      exact ⟨rfl, fun _ _ => rfl, fun _ ha => PerAgent.get_set_ne _ _ _ _ ha, fun _ _ => rfl,
        fun hne => absurd h0 hne, fun _ => rfl⟩

end Sys2Proof.Proofs
end

section
/-! SUPPORT. The two sides of the flow-control invariant (41_flow_control.md R158), one for each channel: what its
thread holds, and that the handler's moves keep it. -/

namespace Sys2Proof.Machine

/-! ### The invariant, channel by channel -/

/-- The enable of the interrupt that serves a channel. -/
def enabled (s : State) : Chan → Bool
  | .rx => s.rxie
  | .tx => s.txie

/-- The handler has nothing to move: no room in the RX ring, no data in the TX ring. -/
def calm (s : State) : Chan → Bool
  | .rx => isFullNow s .rx
  | .tx => isEmptyNow s .tx

def chanFlowOk (s : State) : Chan → Bool
  | .rx => rxFlowOk s
  | .tx => txFlowOk s

def threadOk (s : State) (p : Pos) (cs : List Caller) : Chan → Bool
  | .rx => rxThreadOk s p cs
  | .tx => txThreadOk s p cs

def commandOk : Chan → Command → Bool
  | .rx => rxCommandOk
  | .tx => txCommandOk

/-- What `flowInv` says of the thread of a channel. -/
def sideOk (s : State) (ch : Chan) : Bool :=
  match s.seq.get (threadOf ch) with
  | none => chanFlowOk s ch
  | some q => threadOk s q.pos q.callers ch && q.callers.all callerBounded

/-- What `flowInv` says of the handler. -/
def handlerOk (s : State) : Bool :=
  match s.seq.get .isr with
  | none => true
  | some q => isrFlowOk s q.pos

/-- What `flowInv` says of everything but the operations in progress. -/
structure FlowBase (s : State) : Prop where
  ring : ringInv s = true
  mode : s.mode = .preemptive
  cap : ∀ ch, s.cap.get ch ≠ 0
  sched : ∀ t ∈ s.sched, t ≠ .powerOn
  ports : ∀ ch, ∀ c ∈ s.ports.get (threadOf ch), commandOk ch c = true

theorem flowInv_iff (s : State) :
    flowInv s = true ↔ FlowBase s ∧ (∀ ch, sideOk s ch = true) ∧ handlerOk s = true := by
  have hsplit : flowInv s = (ringInv s && s.mode == .preemptive && s.cap.get .rx != 0 && s.cap.get .tx != 0 &&
      (s.sched.all fun t => t != .powerOn) && s.ports.txt.all txCommandOk && s.ports.rxt.all rxCommandOk &&
      sideOk s .tx && sideOk s .rx && handlerOk s) := rfl
  simp only [hsplit, Bool.and_eq_true, beq_iff_eq, bne_iff_ne, List.all_eq_true]
  constructor
  · rintro ⟨⟨⟨⟨⟨⟨⟨⟨⟨hring, hmode⟩, hrx⟩, htx⟩, hsched⟩, hptx⟩, hprx⟩, hside⟩, hside'⟩, hisr⟩
    exact ⟨⟨hring, hmode, fun ch => by cases ch <;> assumption, hsched, fun ch => by cases ch <;> assumption⟩,
      fun ch => by cases ch <;> assumption, hisr⟩
  · rintro ⟨⟨hring, hmode, hcap, hsched, hports⟩, hside, hisr⟩
    exact ⟨⟨⟨⟨⟨⟨⟨⟨⟨hring, hmode⟩, hcap .rx⟩, hcap .tx⟩, hsched⟩, hports .tx⟩, hports .rx⟩, hside .tx⟩, hside .rx⟩,
      hisr⟩

theorem chanFlowOk_iff (s : State) (ch : Chan) :
    chanFlowOk s ch = true ↔ calm s ch = true ∨ enabled s ch = true := by
  cases ch <;> simp [chanFlowOk, rxFlowOk, txFlowOk, calm, enabled]

theorem sideOk_of_none {s : State} {ch : Chan} (hq : s.seq.get (threadOf ch) = none) :
    sideOk s ch = true ↔ chanFlowOk s ch = true := by
  rw [sideOk, hq]

theorem sideOk_of_some {s : State} {ch : Chan} {q : Sequencer} (hq : s.seq.get (threadOf ch) = some q) :
    sideOk s ch = true ↔ threadOk s q.pos q.callers ch = true ∧ q.callers.all callerBounded = true := by
  rw [sideOk, hq, Bool.and_eq_true]

/-! ### What a burst in progress holds -/

theorem txBurstOk_iff (s : State) (n left : Nat) :
    txBurstOk s n left = true ↔
      s.widx.get .tx = (s.snap.get .tx).snapW + BitVec.ofNat 16 n ∧
      (usedOf (s.snap.get .tx).snapW (s.snap.get .tx).snapR).toNat ≤ (s.cap.get .tx).toNat ∧
      (usedOf (s.snap.get .tx).snapW (s.snap.get .tx).snapR).toNat + n =
        (usedOf (s.ridx.get .tx) (s.snap.get .tx).snapR).toNat + usedNow s .tx ∧
      n + left ≤ burstMax ∧
      (s.txie = true ∨ emptyAt (s.snap.get .tx).snapW (s.snap.get .tx).snapR = true ∨
        s.ridx.get .tx ≠ (s.snap.get .tx).snapR) := by
  simp [txBurstOk, usedNow, and_assoc, or_assoc]

theorem rxBurstFrom_iff (s : State) (w0 r0 : Index) (n left : Nat) :
    rxBurstFrom s w0 r0 n left = true ↔
      s.ridx.get .rx = r0 + BitVec.ofNat 16 n ∧
      (usedOf w0 r0).toNat ≤ (s.cap.get .rx).toNat ∧
      (usedOf (s.widx.get .rx) w0).toNat + (usedOf w0 r0).toNat = usedNow s .rx + n ∧
      n + left ≤ burstMax ∧
      (s.rxie = true ∨ fullAt w0 r0 (s.cap.get .rx) = true ∨ s.widx.get .rx ≠ w0) := by
  simp [rxBurstFrom, usedNow, and_assoc, or_assoc]

theorem rxDecisionOk_iff (s : State) (w1 : Index) (n : Nat) :
    rxDecisionOk s w1 n = true ↔
      s.ridx.get .rx = (s.snap.get .rx).snapR + BitVec.ofNat 16 n ∧
      (usedOf w1 (s.ridx.get .rx)).toNat ≤ usedNow s .rx ∧
      (s.rxie = true ∨ isFullNow s .rx = true ∨
        fullAt (s.snap.get .rx).snapW (s.snap.get .rx).snapR (s.cap.get .rx) = true ∨
        w1 ≠ (s.snap.get .rx).snapW) := by
  simp [rxDecisionOk, usedNow, and_assoc, or_assoc]

section Heads

variable (s : State) (p : Pos) (cs : List Caller)

theorem txThreadOk_nil : txThreadOk s p [] = true ↔ txFlowOk s = true ∧ opOf p ≠ .push .tx 0 := by
  rw [show txThreadOk s p [] = (txFlowOk s && opOf p != .push .tx 0) from rfl, Bool.and_eq_true, bne_iff_ne]

theorem txThreadOk_wrnbSnap (rest : List Byte) : txThreadOk s p (.wrnbSnap rest :: cs) = true ↔
    txFlowOk s = true ∧ rest.length ≤ burstMax ∧ (p = .snap2 .tx → (s.snap.get .tx).snapW = s.widx.get .tx) := by
  rw [show txThreadOk s p (.wrnbSnap rest :: cs) = (txFlowOk s && decide (rest.length ≤ burstMax) &&
    (p != .snap2 .tx || (s.snap.get .tx).snapW == s.widx.get .tx)) from rfl]
  simp [and_assoc, imp_iff_not_or]

theorem txThreadOk_wrnbIsFull (rest : List Byte) (n : Nat) :
    txThreadOk s p (.wrnbIsFull rest n :: cs) = true ↔ txBurstOk s n rest.length = true := .rfl

theorem txThreadOk_wrnbPush (rest : List Byte) (n : Nat) :
    txThreadOk s p (.wrnbPush rest n :: cs) = true ↔ 0 < n ∧ txBurstOk s (n - 1) (rest.length + 1) = true := by
  rw [show txThreadOk s p (.wrnbPush rest n :: cs) =
    (decide (0 < n) && txBurstOk s (n - 1) (rest.length + 1)) from rfl, Bool.and_eq_true, decide_eq_true_eq]

theorem txThreadOk_wrnbFc (wanted : Bool) (n : Nat) : txThreadOk s p (.wrnbFc wanted n :: cs) = true ↔
    p = .fcTxt3 ∨ (txBurstOk s n 0 = true ∧ (p = .fcTxt1 ∨ p = .fcTxt2 (s.widx.get .tx))) := by
  rw [show txThreadOk s p (.wrnbFc wanted n :: cs) =
    (p == .fcTxt3 || (txBurstOk s n 0 && (p == .fcTxt1 || p == .fcTxt2 (s.widx.get .tx)))) from rfl]
  simp

theorem rxThreadOk_nil : rxThreadOk s p [] = true ↔ rxFlowOk s = true ∧ opOf p ≠ .pop .rx := by
  rw [show rxThreadOk s p [] = (rxFlowOk s && opOf p != .pop .rx) from rfl, Bool.and_eq_true, bne_iff_ne]

theorem rxThreadOk_rdnbSnap (m : Nat) : rxThreadOk s p (.rdnbSnap m :: cs) = true ↔
    rxFlowOk s = true ∧ m ≤ burstMax ∧
      (p = .snap2 .rx → rxBurstFrom s (s.snap.get .rx).snapW (s.ridx.get .rx) 0 m = true) := by
  rw [show rxThreadOk s p (.rdnbSnap m :: cs) = (rxFlowOk s && decide (m ≤ burstMax) &&
    (p != .snap2 .rx || rxBurstFrom s (s.snap.get .rx).snapW (s.ridx.get .rx) 0 m)) from rfl]
  simp [and_assoc, imp_iff_not_or]

theorem rxThreadOk_rdnbIsEmpty (m : Nat) (buf : List Byte) :
    rxThreadOk s p (.rdnbIsEmpty m buf :: cs) = true ↔ 0 < m ∧ rxBurstOk s buf.length m = true := by
  rw [show rxThreadOk s p (.rdnbIsEmpty m buf :: cs) = (decide (0 < m) && rxBurstOk s buf.length m) from rfl,
    Bool.and_eq_true, decide_eq_true_eq]

theorem rxThreadOk_rdnbPop (m : Nat) (buf : List Byte) :
    rxThreadOk s p (.rdnbPop m buf :: cs) = true ↔ rxBurstOk s buf.length (m + 1) = true := .rfl

/-- The three positions of the `FC.RXT` that ends a burst. -/
theorem rxThreadOk_rdnbFc (wanted : Bool) (buf : List Byte) : rxThreadOk s p (.rdnbFc wanted buf :: cs) = true ↔
    (p = .fcRxt1 ∧ rxBurstOk s buf.length 0 = true) ∨
    (∃ w1, p = .fcRxt2 w1 ∧ rxDecisionOk s w1 buf.length = true) ∨ p = .fcRxt3 := by
  constructor
  · intro h
    cases p with
    | fcRxt1 => exact .inl ⟨rfl, h⟩
    | fcRxt2 w1 => exact .inr (.inl ⟨w1, rfl, h⟩)
    | fcRxt3 => exact .inr (.inr rfl)
    | _ => cases h
  · rintro (⟨rfl, h⟩ | ⟨w1, rfl, h⟩ | rfl)
    · exact h
    · exact h
    · rfl

end Heads

/-- A state that keeps the transmit counters and latches of the thread keeps what it holds when the property and
the open burst are kept. -/
theorem txThreadOk_mono {s t : State} {p : Pos} {cs : List Caller} (hsnap : t.snap.get .tx = s.snap.get .tx)
    (hwidx : t.widx.get .tx = s.widx.get .tx) (hflow : txFlowOk s = true → txFlowOk t = true)
    (hburst : ∀ n left, txBurstOk s n left = true → txBurstOk t n left = true)
    (h : txThreadOk s p cs = true) : txThreadOk t p cs = true := by
  cases cs with
  | nil =>
    rw [txThreadOk_nil] at h ⊢
    exact h.imp_left hflow
  | cons c cs =>
    cases c with
    | wrnbSnap rest =>
      rw [txThreadOk_wrnbSnap] at h ⊢
      rw [hsnap, hwidx]
      exact h.imp_left hflow
    | wrnbIsFull rest n => exact hburst _ _ h
    | wrnbPush rest n =>
      rw [txThreadOk_wrnbPush] at h ⊢
      exact h.imp_right (hburst _ _)
    | wrnbFc wanted n =>
      rw [txThreadOk_wrnbFc] at h ⊢
      rw [hwidx]
      exact h.imp_right (And.imp_left (hburst _ _))
    | _ => exact hflow h

/-- The mirror image for the receive side. -/
theorem rxThreadOk_mono {s t : State} {p : Pos} {cs : List Caller} (hsnap : t.snap.get .rx = s.snap.get .rx)
    (hridx : t.ridx.get .rx = s.ridx.get .rx) (hflow : rxFlowOk s = true → rxFlowOk t = true)
    (hburst : ∀ w0 r0 n left, rxBurstFrom s w0 r0 n left = true → rxBurstFrom t w0 r0 n left = true)
    (hdec : ∀ w1 n, rxDecisionOk s w1 n = true → rxDecisionOk t w1 n = true)
    (h : rxThreadOk s p cs = true) : rxThreadOk t p cs = true := by
  have hopen : ∀ n left, rxBurstOk s n left = true → rxBurstOk t n left = true := by
    intro n left h
    rw [rxBurstOk, hsnap]
    exact hburst _ _ _ _ h
  cases cs with
  | nil =>
    rw [rxThreadOk_nil] at h ⊢
    exact h.imp_left hflow
  | cons c cs =>
    cases c with
    | rdnbSnap m =>
      rw [rxThreadOk_rdnbSnap] at h ⊢
      rw [hsnap, hridx]
      exact ⟨hflow h.1, h.2.1, fun hp => hburst _ _ _ _ (h.2.2 hp)⟩
    | rdnbIsEmpty m buf =>
      rw [rxThreadOk_rdnbIsEmpty] at h ⊢
      exact h.imp_right (hopen _ _)
    | rdnbPop m buf => exact hopen _ _ h
    | rdnbFc wanted buf =>
      rw [rxThreadOk_rdnbFc] at h ⊢
      exact h.imp (And.imp_right (hopen _ _)) (Or.imp_left fun ⟨w1, hp, hd⟩ => ⟨w1, hp, hdec _ _ hd⟩)
    | _ => exact hflow h

end Sys2Proof.Machine
end

section
/-! SUPPORT. What the other agents do to a side of the flow-control invariant: nothing, or the handler moves one
byte, or it disables its interrupt with nothing to move (41_flow_control.md R154, R156, R158). -/

namespace Sys2Proof.Machine

/-- The side of channel `ch` is as it was, but that its enable may have been set. -/
structure SameSide (ch : Chan) (s t : State) : Prop where
  cap : t.cap.get ch = s.cap.get ch
  widx : t.widx.get ch = s.widx.get ch
  ridx : t.ridx.get ch = s.ridx.get ch
  snap : t.snap.get ch = s.snap.get ch
  enabled : enabled s ch = true → Machine.enabled t ch = true

/-- The handler's move of one byte: into the RX ring, out of the TX ring. -/
def handlerMoves (s : State) : Chan → State
  | .rx => s.setWidx .rx (inc16 (s.widx.get .rx))
  | .tx => s.setRidx .tx (inc16 (s.ridx.get .tx))

def handlerDisables (s : State) : Chan → State
  | .rx => s.disableRx
  | .tx => s.disableTx

/-- What an agent other than the thread of `ch` does to the side of `ch`. -/
inductive Served (ch : Chan) (s t : State) : Prop
  | same (h : SameSide ch s t)
  | moved (hbusy : calm s ch = false) (h : SameSide ch (handlerMoves s ch) t)
  | off (hcalm : calm s ch = true) (h : SameSide ch (handlerDisables s ch) t)

namespace SameSide

variable {ch : Chan} {s t : State}

theorem refl (ch : Chan) (s : State) : SameSide ch s s := ⟨rfl, rfl, rfl, rfl, id⟩

theorem usedNow_eq (h : SameSide ch s t) : usedNow t ch = usedNow s ch := by rw [usedNow, h.widx, h.ridx, usedNow]

theorem isFullNow_eq (h : SameSide ch s t) : isFullNow t ch = isFullNow s ch := by
  rw [isFullNow, h.widx, h.ridx, h.cap, isFullNow]

theorem isEmptyNow_eq (h : SameSide ch s t) : isEmptyNow t ch = isEmptyNow s ch := by
  rw [isEmptyNow, h.widx, h.ridx, isEmptyNow]

theorem chanFlowOk (h : SameSide ch s t) (hs : chanFlowOk s ch = true) : Machine.chanFlowOk t ch = true := by
  have hcalm : calm t ch = calm s ch := by cases ch with
    | rx => exact h.isFullNow_eq
    | tx => exact h.isEmptyNow_eq
  rw [chanFlowOk_iff] at hs ⊢
  rw [hcalm]
  exact hs.imp_right h.enabled

theorem txBurstOk {n left : Nat} (h : SameSide .tx s t) (hs : txBurstOk s n left = true) :
    Machine.txBurstOk t n left = true := by
  rw [txBurstOk_iff] at hs ⊢
  rw [h.cap, h.widx, h.ridx, h.snap, h.usedNow_eq]
  exact ⟨hs.1, hs.2.1, hs.2.2.1, hs.2.2.2.1, hs.2.2.2.2.imp_left h.enabled⟩

theorem rxBurstFrom {w0 r0 : Index} {n left : Nat} (h : SameSide .rx s t) (hs : rxBurstFrom s w0 r0 n left = true) :
    Machine.rxBurstFrom t w0 r0 n left = true := by
  rw [rxBurstFrom_iff] at hs ⊢
  rw [h.cap, h.widx, h.ridx, h.usedNow_eq]
  exact ⟨hs.1, hs.2.1, hs.2.2.1, hs.2.2.2.1, hs.2.2.2.2.imp_left h.enabled⟩

theorem rxDecisionOk {w1 : Index} {n : Nat} (h : SameSide .rx s t) (hs : rxDecisionOk s w1 n = true) :
    Machine.rxDecisionOk t w1 n = true := by
  rw [rxDecisionOk_iff] at hs ⊢
  rw [h.cap, h.ridx, h.snap, h.usedNow_eq, h.isFullNow_eq]
  exact ⟨hs.1, hs.2.1, hs.2.2.imp_left h.enabled⟩

theorem threadOk {p : Pos} {cs : List Caller} (h : SameSide ch s t) (hs : threadOk s p cs ch = true) :
    Machine.threadOk t p cs ch = true := by
  cases ch with
  | rx =>
    exact rxThreadOk_mono h.snap h.ridx h.chanFlowOk (fun _ _ _ _ => h.rxBurstFrom) (fun _ _ => h.rxDecisionOk) hs
  | tx => exact txThreadOk_mono h.snap h.widx h.chanFlowOk (fun _ _ => h.txBurstOk) hs

end SameSide

/-! ### The handler moves a byte

A burst is short enough that the handler's counter cannot come round to its latched value (70_reset_and_hazards.md
R343). -/

section Moves

variable {s : State}

theorem usedOf_self (v : Index) : usedOf v v = 0 := BitVec.sub_self v

theorem inc16_toNat {v : Index} (h : v.toNat < 65535) : (v + 1).toNat = v.toNat + 1 := by bv_omega

theorem handlerMoves_chanFlowOk {ch : Chan} (hbusy : calm s ch = false) (hs : chanFlowOk s ch = true) :
    chanFlowOk (handlerMoves s ch) ch = true := by
  rw [chanFlowOk_iff, hbusy] at hs
  have hon : enabled s ch = true := hs.resolve_left (by simp)
  rw [chanFlowOk_iff]
  cases ch <;> exact .inr hon

theorem txBurstOk_consume {n left : Nat} (hring : RingOk s .tx) (hdata : isEmptyNow s .tx = false)
    (hs : txBurstOk s n left = true) : txBurstOk (handlerMoves s .tx) n left = true := by
  rw [txBurstOk_iff] at hs ⊢
  obtain ⟨hw, hused, hcount, hleft, hoff⟩ := hs
  have hpos := (isEmptyNow_false_iff s .tx).1 hdata
  have hle := hring.cap_le
  have hstep : (usedOf (inc16 (s.ridx.get .tx)) (s.snap.get .tx).snapR).toNat =
      (usedOf (s.ridx.get .tx) (s.snap.get .tx).snapR).toNat + 1 := by
    rw [usedOf_inc16_left]
    exact inc16_toNat (by unfold burstMax at hleft; omega)
  have hmoved : inc16 (s.ridx.get .tx) ≠ (s.snap.get .tx).snapR := fun heq => by
    rw [heq, usedOf_self] at hstep
    cases hstep
  have hnow : usedNow (handlerMoves s .tx) .tx = usedNow s .tx - 1 := RingOk.usedNow_consume hdata
  refine ⟨hw, hused, ?_, hleft, .inr (.inr hmoved)⟩
  change _ = (usedOf (inc16 (s.ridx.get .tx)) (s.snap.get .tx).snapR).toNat + _
  rw [hnow, hstep]
  exact hcount.trans (by omega)

theorem rxBurstFrom_publish {w0 r0 : Index} {n left : Nat} (hring : RingOk s .rx) (hroom : isFullNow s .rx = false)
    (hs : rxBurstFrom s w0 r0 n left = true) : rxBurstFrom (handlerMoves s .rx) w0 r0 n left = true := by
  rw [rxBurstFrom_iff] at hs ⊢
  obtain ⟨hr, hused, hcount, hleft, hoff⟩ := hs
  have hlt := (isFullNow_false_iff s .rx).1 hroom
  have hle := hring.cap_le
  have hstep : (usedOf (inc16 (s.widx.get .rx)) w0).toNat = (usedOf (s.widx.get .rx) w0).toNat + 1 := by
    rw [usedOf_inc16_left]
    exact inc16_toNat (by unfold burstMax at hleft; omega)
  have hmoved : inc16 (s.widx.get .rx) ≠ w0 := fun heq => by
    rw [heq, usedOf_self] at hstep
    cases hstep
  have hnow : usedNow (handlerMoves s .rx) .rx = usedNow s .rx + 1 := hring.usedNow_publish hroom
  refine ⟨hr, hused, ?_, hleft, .inr (.inr hmoved)⟩
  rw [hnow]
  change (usedOf (inc16 (s.widx.get .rx)) w0).toNat + _ = _
  omega

theorem rxDecisionOk_publish {w1 : Index} {n : Nat} (hring : RingOk s .rx) (hroom : isFullNow s .rx = false)
    (hs : rxDecisionOk s w1 n = true) : rxDecisionOk (handlerMoves s .rx) w1 n = true := by
  rw [rxDecisionOk_iff] at hs ⊢
  obtain ⟨hr, hused, hoff⟩ := hs
  have hnow : usedNow (handlerMoves s .rx) .rx = usedNow s .rx + 1 := hring.usedNow_publish hroom
  rw [hroom] at hoff
  rw [hnow]
  refine ⟨hr, hused.trans (Nat.le_succ _), ?_⟩
  rcases hoff with hon | hfull | hoff
  · exact .inl hon
  · cases hfull
  · exact .inr (.inr hoff)

theorem handlerMoves_threadOk {ch : Chan} {p : Pos} {cs : List Caller} (hring : RingOk s ch)
    (hbusy : calm s ch = false) (hs : threadOk s p cs ch = true) : threadOk (handlerMoves s ch) p cs ch = true := by
  have hflow := handlerMoves_chanFlowOk hbusy
  cases ch with
  | rx =>
    exact rxThreadOk_mono (s := s) rfl rfl hflow (fun _ _ _ _ => rxBurstFrom_publish hring hbusy)
      (fun _ _ => rxDecisionOk_publish hring hbusy) hs
  | tx => exact txThreadOk_mono (s := s) rfl rfl hflow (fun _ _ => txBurstOk_consume hring hbusy) hs

/-! ### The handler disables its interrupt

With nothing to move now, either there was nothing at the snapshot or the handler has moved since. -/

theorem handlerDisables_chanFlowOk {ch : Chan} (hcalm : calm s ch = true) :
    chanFlowOk (handlerDisables s ch) ch = true := by
  rw [chanFlowOk_iff]
  cases ch <;> exact .inl hcalm

theorem txBurstOk_disable {n left : Nat} (hempty : isEmptyNow s .tx = true) (hs : txBurstOk s n left = true) :
    txBurstOk s.disableTx n left = true := by
  rw [txBurstOk_iff] at hs ⊢
  obtain ⟨hw, hused, hcount, hleft, -⟩ := hs
  refine ⟨hw, hused, hcount, hleft, .inr ?_⟩
  rw [(isEmptyNow_iff s .tx).1 hempty] at hcount
  rw [emptyAt_iff_used, or_iff_not_imp_right, not_not]
  intro heq
  change s.ridx.get .tx = (s.snap.get .tx).snapR at heq
  change (usedOf (s.snap.get .tx).snapW (s.snap.get .tx).snapR).toNat = 0
  rw [heq, usedOf_self] at hcount
  have hzero : (0 : Index).toNat = 0 := rfl
  omega

theorem rxBurstFrom_disable {w0 r0 : Index} {n left : Nat} (hfull : isFullNow s .rx = true)
    (hs : rxBurstFrom s w0 r0 n left = true) : rxBurstFrom s.disableRx w0 r0 n left = true := by
  rw [rxBurstFrom_iff] at hs ⊢
  obtain ⟨hr, hused, hcount, hleft, -⟩ := hs
  refine ⟨hr, hused, hcount, hleft, .inr ?_⟩
  have hge := (isFullNow_iff s .rx).1 hfull
  rw [fullAt_iff, or_iff_not_imp_right, not_not]
  intro heq
  change s.widx.get .rx = w0 at heq
  change (s.cap.get .rx).toNat ≤ (usedOf w0 r0).toNat
  rw [heq, usedOf_self] at hcount
  have hzero : (0 : Index).toNat = 0 := rfl
  omega

theorem rxDecisionOk_disable {w1 : Index} {n : Nat} (hfull : isFullNow s .rx = true)
    (hs : rxDecisionOk s w1 n = true) : rxDecisionOk s.disableRx w1 n = true := by
  rw [rxDecisionOk_iff] at hs ⊢
  exact ⟨hs.1, hs.2.1, .inr (.inl hfull)⟩

theorem handlerDisables_threadOk {ch : Chan} {p : Pos} {cs : List Caller} (hcalm : calm s ch = true)
    (hs : threadOk s p cs ch = true) : threadOk (handlerDisables s ch) p cs ch = true := by
  have hflow := handlerDisables_chanFlowOk hcalm
  cases ch with
  | rx =>
    exact rxThreadOk_mono (s := s) rfl rfl (fun _ => hflow) (fun _ _ _ _ => rxBurstFrom_disable hcalm)
      (fun _ _ => rxDecisionOk_disable hcalm) hs
  | tx => exact txThreadOk_mono (s := s) rfl rfl (fun _ => hflow) (fun _ _ => txBurstOk_disable hcalm) hs

end Moves

namespace Served

variable {ch : Chan} {s t : State}

theorem chanFlowOk (h : Served ch s t) (hs : chanFlowOk s ch = true) : Machine.chanFlowOk t ch = true := by
  cases h with
  | same h => exact h.chanFlowOk hs
  | moved hbusy h => exact h.chanFlowOk (handlerMoves_chanFlowOk hbusy hs)
  | off hcalm h => exact h.chanFlowOk (handlerDisables_chanFlowOk hcalm)

theorem threadOk {p : Pos} {cs : List Caller} (h : Served ch s t) (hring : RingOk s ch)
    (hs : threadOk s p cs ch = true) : Machine.threadOk t p cs ch = true := by
  cases h with
  | same h => exact h.threadOk hs
  | moved hbusy h => exact h.threadOk (handlerMoves_threadOk hring hbusy hs)
  | off hcalm h => exact h.threadOk (handlerDisables_threadOk hcalm hs)

/-- Whatever another agent does, the thread's side stays right. -/
theorem sideOk (h : Served ch s t) (hring : RingOk s ch) (hseq : t.seq.get (threadOf ch) = s.seq.get (threadOf ch))
    (hs : sideOk s ch = true) : Machine.sideOk t ch = true := by
  cases hq : s.seq.get (threadOf ch) with
  | none =>
    rw [sideOk_of_none hq] at hs
    rw [sideOk_of_none (hseq.trans hq)]
    exact h.chanFlowOk hs
  | some q =>
    rw [sideOk_of_some hq] at hs
    rw [sideOk_of_some (hseq.trans hq)]
    exact hs.imp_left (h.threadOk hring)

end Served

end Sys2Proof.Machine
end

section
/-! SUPPORT. Events of an agent that is not the thread of a channel, seen from that channel's side, and what the
handler holds after its own events (20_memory.md R73, 41_flow_control.md R154, R156). -/

namespace Sys2Proof.Machine

/-- The labelled step that clears the enable of a channel. -/
def disables : Chan → Pos → Bool
  | .rx, .fcRxi3 _ | .tx, .fcTxi3 _ => true
  | _, _ => false

/-- The labelled step that publishes the handler's move of one byte. -/
def servesByte : Chan → Pos → Bool
  | .rx, .push5 .rx _ _ | .tx, .pop5 .tx _ _ => true
  | _, _ => false

/-- The step at `p` clears no enable but the one it disables. -/
structure EnablesKept (p : Pos) (s t : State) : Prop where
  rx : disables .rx p = false → s.rxie = true → t.rxie = true
  tx : disables .tx p = false → s.txie = true → t.txie = true

namespace EnablesKept

variable {p : Pos} {s t : State}

theorem same (hrx : t.rxie = s.rxie) (htx : t.txie = s.txie) : EnablesKept p s t :=
  ⟨fun _ => hrx.trans, fun _ => htx.trans⟩

/-- A call that the device answers, with its answer. -/
theorem ofCall {α : Type} {x : α × State} {y : α} (hx : x = (y, t)) (h : EnablesKept p s x.2) :
    EnablesKept p s t := by
  rw [hx] at h
  exact h

end EnablesKept

theorem posEvent_enables {a : Agent} {s t : State} {p : Pos} (h : (posEvent a s p).state = some t) :
    EnablesKept p s t := by
  cases p with
  | push1 | push4 | push5 | pop1 | pop4 | pop5 | peek1 | peek4 | violate | query1 | query2 | cap1 | snap1 | snap2 =>
    cases h
    exact .same rfl rfl
  | fcTxt1 | fcTxi1 | fcRxt1 | fcRxi1 | errChk3 | wait2 =>
    cases h
    exact .same rfl rfl
  | push2 | pop2 | peek2 | fcTxt2 | fcRxt2 | errChk2 =>
    rw [posEvent] at h
    split at h <;> (cases h; exact .same rfl rfl)
  | fcTxt3 =>
    cases h
    exact ⟨fun _ => id, fun _ _ => rfl⟩
  | fcRxt3 | setup1 =>
    cases h
    exact ⟨fun _ _ => rfl, fun _ => id⟩
  | fcTxi2 =>
    rw [posEvent] at h
    split at h
    · cases h
      exact .same rfl rfl
    · rw [fcTxiTail_state] at h
      cases h
      exact .same rfl rfl
  | fcRxi2 =>
    rw [posEvent] at h
    split at h
    · cases h
      exact .same rfl rfl
    · rw [fcRxiTail_state] at h
      cases h
      exact .same rfl rfl
  | fcTxi3 u =>
    rw [posEvent, fcTxiTail_state] at h
    cases h
    exact ⟨fun _ => id, nofun⟩
  | fcRxi3 u =>
    rw [posEvent, fcRxiTail_state] at h
    cases h
    exact ⟨nofun, fun _ => id⟩
  | fcTxi4 | fcRxi4a | fcRxi4b | fcRxi4c | raise1 | wreset1 | tarm1 | tstop1 | tfire1 =>
    cases h
    exact .same (by simp) (by simp)
  | isr1 | isr3 | isr4 | errChk1 | rxBurst2 | txBurst3 =>
    rw [posEvent] at h
    split at h <;> next hd => cases h; exact .ofCall hd (.same (by simp) (by simp))
  | wait1 =>
    rw [posEvent] at h
    split at h
    · cases h
      exact .same rfl rfl
    · cases h
      exact .same rfl rfl
    · cases h
  | construct1 =>
    rw [posEvent] at h
    split at h
    · cases h
      exact .same rfl rfl
    · split at h
      · cases h
        exact .same rfl rfl
      · split at h <;> (cases h; exact .same rfl rfl)

theorem posEvent_enabled {a : Agent} {s t : State} {p : Pos} {ch : Chan} (h : (posEvent a s p).state = some t)
    (hp : disables ch p = false) (hs : enabled s ch = true) : enabled t ch = true := by
  cases ch with
  | rx => exact (posEvent_enables h).rx hp hs
  | tx => exact (posEvent_enables h).tx hp hs

theorem enabled_own (s : State) (a : Agent) (v : Run) (q : Option Sequencer) (rs : List Response) (ch : Chan) :
    enabled (s.own a v q rs) ch = enabled s ch := by cases ch <;> rfl

theorem SameSide.own {ch : Chan} {s m : State} (h : SameSide ch s m) (a : Agent) (v : Run) (q : Option Sequencer)
    (rs : List Response) : SameSide ch s (m.own a v q rs) :=
  ⟨h.cap, h.widx, h.ridx, h.snap, fun hs => (enabled_own ..).trans (h.enabled hs)⟩

/-- An agent that is neither the handler nor the thread of the channel has no right to anything of its side but to
set the enable (60_exceptions.md R296). -/
theorem Rights.sameSide {a : Agent} {s t : State} {ch : Chan} (h : Rights a s t) (hcap : s.cap.get ch ≠ 0)
    (hisr : a ≠ .isr) (ha : a ≠ threadOf ch) : SameSide ch s t where
  cap := Classical.byContradiction fun hne => hcap (h.cap ch hne).2
  widx := Classical.byContradiction fun hne =>
    (h.producer ch (.inl hne)).elim (by cases ch <;> assumption) fun h => hcap h.2
  ridx := Classical.byContradiction fun hne =>
    (h.consumer ch hne).elim (by cases ch <;> assumption) fun h => hcap h.2
  snap := Classical.byContradiction fun hne => (h.latches ch hne).elim ha fun h => hcap h.2
  enabled := fun hs => by
    by_contra hne
    have hoff := Bool.eq_false_of_not_eq_true hne
    cases ch with
    | rx => exact hisr (h.rxieOff hs hoff)
    | tx => exact hisr (h.txieOff hs hoff)

/-- A step of the handler that neither moves a byte of the channel nor disables its interrupt leaves its side. -/
theorem isrEvent_sameSide {s t m : State} {p : Pos} {ch : Chan} (hrights : Rights .isr s t)
    (hm : (posEvent .isr s p).state = some m) (ht : ∃ v q rs, t = m.own .isr v q rs) (hcap : s.cap.get ch ≠ 0)
    (hconstruct : ∀ d c, p ≠ .construct1 d c) (hserve : servesByte ch p = false) (hoff : disables ch p = false) :
    SameSide ch s t := by
  obtain ⟨v, q, rs, rfl⟩ := ht
  have hcounter : (ch = .rx → m.widx.get ch = s.widx.get ch) ∧ (ch = .tx → m.ridx.get ch = s.ridx.get ch) := by
    cases hp : writesRing p with
    | false =>
      obtain ⟨-, -, hwidx, hridx⟩ := (posEvent_frame hm).ring hp
      exact ⟨fun _ => by rw [hwidx], fun _ => by rw [hridx]⟩
    | true =>
      cases p with
      | push4 =>
        cases hm
        exact ⟨fun _ => rfl, fun _ => rfl⟩
      | push5 d b w =>
        cases hm
        refine ⟨fun hch => PerChan.get_set_ne _ _ _ _ ?_, fun _ => rfl⟩
        rintro rfl
        subst hch
        cases hserve
      | pop5 d r b =>
        cases hm
        refine ⟨fun _ => rfl, fun hch => PerChan.get_set_ne _ _ _ _ ?_⟩
        rintro rfl
        subst hch
        cases hserve
      | construct1 d c => exact absurd rfl (hconstruct d c)
      | _ => cases hp
  constructor
  case cap => exact Classical.byContradiction fun hne => hcap (hrights.cap ch hne).2
  case snap =>
    exact Classical.byContradiction fun hne =>
      (hrights.latches ch hne).elim (threadOf_ne_isr ch).symm fun h => hcap h.2
  case enabled => exact fun hs => (enabled_own ..).trans (posEvent_enabled hm hoff hs)
  case widx =>
    cases ch with
    | rx => exact hcounter.1 rfl
    | tx =>
      exact Classical.byContradiction fun hne => (hrights.producer .tx (.inl hne)).elim (by decide) fun h => hcap h.2
  case ridx =>
    cases ch with
    | rx =>
      exact Classical.byContradiction fun hne => (hrights.consumer .rx hne).elim (by decide) fun h => hcap h.2
    | tx => exact hcounter.2 rfl

theorem servesByte_iff {ch : Chan} {p : Pos} : servesByte ch p = true ↔
    (ch = .rx ∧ ∃ b w, p = .push5 .rx b w) ∨ (ch = .tx ∧ ∃ r b, p = .pop5 .tx r b) := by
  constructor
  · unfold servesByte
    split
    · exact fun _ => .inl ⟨rfl, _, _, rfl⟩
    · exact fun _ => .inr ⟨rfl, _, _, rfl⟩
    · exact nofun
  · rintro (⟨rfl, b, w, rfl⟩ | ⟨rfl, r, b, rfl⟩) <;> rfl

theorem disables_iff {ch : Chan} {p : Pos} : disables ch p = true ↔
    (ch = .rx ∧ ∃ u, p = .fcRxi3 u) ∨ (ch = .tx ∧ ∃ u, p = .fcTxi3 u) := by
  constructor
  · unfold disables
    split
    · exact fun _ => .inl ⟨rfl, _, rfl⟩
    · exact fun _ => .inr ⟨rfl, _, rfl⟩
    · exact nofun
  · rintro (⟨rfl, u, rfl⟩ | ⟨rfl, u, rfl⟩) <;> rfl

theorem isrEvent_served {s t : State} {q : Sequencer} {ch : Chan} (hs : ringInv s = true)
    (hrun : s.run.get .isr = .busy) (hq : s.seq.get .isr = some q) (hheld : isrFlowOk s q.pos = true)
    (hcap : s.cap.get ch ≠ 0) (h : agentEvent .isr s = .next t) : Served ch s t := by
  obtain ⟨-, hok⟩ := (ringInv_iff_base s .isr).1 hs
  have hrights := (agentEvent_ok hok hrun h).1.rights
  obtain ⟨q', hq', hseq⟩ := agentOk_of_busy hok hrun
  obtain rfl : q' = q := Option.some.inj (hq'.symm.trans hq)
  obtain ⟨hch, hout, hpos⟩ := (seqOk_iff ..).1 hseq
  have hacc := ((permitted_iff ..).1 (permitted_chain hch hout).1).1
  rw [agentEvent, hq] at h
  obtain ⟨m, v, q'', rs, hm, rfl⟩ := settle_own h
  by_cases hserve : servesByte ch q'.pos = true
  · rcases servesByte_iff.1 hserve with ⟨rfl, b, w, hp⟩ | ⟨rfl, r, b, hp⟩ <;> rw [hp] at hm hpos
    · obtain ⟨rfl, hroom, -⟩ := (posOk_push5 ..).1 hpos
      cases hm
      exact .moved hroom ((SameSide.refl ..).own ..)
    · obtain ⟨rfl, hdata, -⟩ := (posOk_pop5 ..).1 hpos
      cases hm
      exact .moved hdata ((SameSide.refl ..).own ..)
  by_cases hoff : disables ch q'.pos = true
  · rcases disables_iff.1 hoff with ⟨rfl, u, hp⟩ | ⟨rfl, u, hp⟩ <;> rw [hp] at hm hheld
    · rw [posEvent, fcRxiTail_state] at hm
      cases hm
      exact .off hheld ((SameSide.refl ..).own ..)
    · rw [posEvent, fcTxiTail_state] at hm
      cases hm
      exact .off hheld ((SameSide.refl ..).own ..)
  · refine .same (isrEvent_sameSide hrights hm ⟨v, q'', rs, rfl⟩ hcap (fun d c hp => ?_)
      (Bool.eq_false_of_not_eq_true hserve) (Bool.eq_false_of_not_eq_true hoff))
    rw [hp] at hacc
    cases hacc

/-- One event of any agent but the thread of the channel. -/
theorem agentEvent_served {a : Agent} {s t : State} {ch : Chan} (hs : ringInv s = true) (hheld : handlerOk s = true)
    (hcap : s.cap.get ch ≠ 0) (hrun : s.run.get a = .busy) (ha : a ≠ threadOf ch)
    (h : agentEvent a s = .next t) : Served ch s t := by
  obtain ⟨-, hok⟩ := (ringInv_iff_base s a).1 hs
  by_cases hisr : a = .isr
  · subst hisr
    obtain ⟨q, hq, -⟩ := agentOk_of_busy hok hrun
    rw [handlerOk, hq] at hheld
    exact isrEvent_served hs hrun hq hheld hcap h
  · exact .same ((agentEvent_ok hok hrun h).1.rights.sameSide hcap hisr ha)

/-! ### What the handler holds after its own events -/

theorem fcTxiTail_held {s m : State} {u : Index} {p : Pos} {ds : List Caller} (h : fcTxiTail s u = .go m p ds) :
    isrFlowOk m p = true := by
  unfold fcTxiTail at h
  split at h <;> cases h
  rfl

theorem fcRxiTail_held {s m : State} {u : Index} {p : Pos} {ds : List Caller} (h : fcRxiTail s u = .go m p ds) :
    isrFlowOk m p = true := by
  unfold fcRxiTail at h
  split at h
  · cases h
    rfl
  · split at h <;> cases h
    rfl

/-- The first load of a policy holds the counter it loaded, and its disable is reached on the test only. -/
theorem posEvent_held {a : Agent} {s m : State} {p p' : Pos} {ds : List Caller} (hs : isrFlowOk s p = true)
    (h : posEvent a s p = .go m p' ds) : isrFlowOk m p' = true := by
  cases p with
  | push1 | push4 | pop1 | pop4 | peek1 | query1 | snap1 | fcTxt1 | fcRxt1 | fcRxi4a =>
    cases h
    rfl
  | push5 | pop5 | peek4 | violate | query2 | cap1 | snap2 | fcTxt3 | fcTxi4 | fcRxt3 | fcRxi4b | fcRxi4c => cases h
  | errChk3 | raise1 | wait2 | wreset1 | tarm1 | tstop1 | tfire1 | setup1 => cases h
  | push2 | pop2 | peek2 | fcTxt2 | fcRxt2 | isr1 | isr3 | isr4 | errChk1 | errChk2 | rxBurst2 | txBurst3 | wait1 =>
    rw [posEvent] at h
    split at h <;> cases h <;> rfl
  | fcTxi1 | fcRxi1 =>
    cases h
    exact beq_self_eq_true _
  | fcTxi2 w1 =>
    obtain rfl : w1 = s.widx.get .tx := beq_iff_eq.1 hs
    rw [posEvent] at h
    split at h
    · next hempty =>
      cases h
      exact hempty
    · exact fcTxiTail_held h
  | fcRxi2 w1 =>
    obtain rfl : w1 = s.widx.get .rx := beq_iff_eq.1 hs
    rw [posEvent] at h
    split at h
    · next hfull =>
      cases h
      exact hfull
    · exact fcRxiTail_held h
  | fcTxi3 u => exact fcTxiTail_held h
  | fcRxi3 u => exact fcRxiTail_held h
  | construct1 =>
    rw [posEvent] at h
    repeat' split at h
    all_goals cases h

/-- No composite goes on in the middle of a policy. -/
theorem resume_held {r : Reply} {c : Caller} {p : Pos} {ds : List Caller} (h : resume r c = .enter p ds)
    (s : State) : isrFlowOk s p = true := by
  cases c with
  | isrErrChk | isrRxBurst | isrTxBurst | rxBurstPush | txBurstPeek | txBurstPop | writeWait | readWait =>
    cases h
    rfl
  | rxBurstFc | txBurstFc | wrnbFc | rdnbFc => cases h
  | rxBurstIsFull | txBurstIsEmpty | rdnbIsEmpty | readRdnb =>
    rw [resume] at h
    split at h <;> cases h <;> rfl
  | wrnbSnap rest | wrnbPush rest | rdnbSnap rest | rdnbPop rest => cases rest <;> cases h <;> rfl
  | wrnbIsFull rest =>
    cases rest with
    | nil =>
      cases h
      rfl
    | cons b bs =>
      rw [resume] at h
      split at h <;> cases h <;> rfl
  | writeWrnb =>
    rw [resume] at h
    repeat' split at h
    all_goals cases h
    all_goals rfl

theorem handlerOk_own_some (s : State) (v : Run) (q : Sequencer) (rs : List Response) :
    handlerOk (s.own .isr v (some q) rs) = isrFlowOk s q.pos := rfl

theorem unwind_handlerOk (cs : List Caller) (r : Reply) (s : State) : handlerOk (unwind .isr cs r s) = true := by
  induction cs generalizing r with
  | nil => rfl
  | cons c cs ih =>
    unfold unwind
    split
    · next p ds hres => exact resume_held hres s
    · exact ih _

theorem isrEvent_handlerOk {s t : State} {q : Sequencer} (hs : ringInv s = true) (hrun : s.run.get .isr = .busy)
    (hq : s.seq.get .isr = some q) (hheld : isrFlowOk s q.pos = true) (h : agentEvent .isr s = .next t) :
    handlerOk t = true := by
  obtain ⟨-, hok⟩ := (ringInv_iff_base s .isr).1 hs
  obtain ⟨q', hq', hseq⟩ := agentOk_of_busy hok hrun
  obtain rfl : q' = q := Option.some.inj (hq'.symm.trans hq)
  obtain ⟨hch, hout, hpos⟩ := (seqOk_iff ..).1 hseq
  have hevent := posEvent_ok (permitted_chain hch hout).1 hpos
  rw [agentEvent, hq] at h
  dsimp only at h
  cases hr : posEvent .isr s q'.pos with
  | go m p ds =>
    rw [hr] at h
    cases h
    exact posEvent_held (m := m) (ds := ds) hheld hr
  | answer m r =>
    rw [hr] at h
    cases h
    exact unwind_handlerOk ..
  | violated m r =>
    rw [hr] at h
    cases h
    rfl
  | park m p =>
    rw [hr] at h hevent
    cases hevent
    cases h
    rfl
  | stuck f =>
    rw [hr] at h
    cases h

end Sys2Proof.Machine
end

section
/-! SUPPORT. A thread's own events: what it holds at each of its positions leads to what it holds at the next, and a
burst ends in the flow-control property (41_flow_control.md R151 to R155, R158). -/

namespace Sys2Proof.Machine

/-! ### Positions of an operation -/

theorem opOf_eq_snap {p : Pos} {ch : Chan} (h : opOf p = .snap ch) : p = .snap1 ch ∨ p = .snap2 ch := by
  unfold opOf at h
  split at h <;> cases h
  · exact .inl rfl
  · exact .inr rfl

theorem opOf_eq_isFull {p : Pos} {ch : Chan} (h : opOf p = .isFull ch) :
    p = .query1 .full ch ∨ ∃ w, p = .query2 .full ch w := by
  unfold opOf at h
  split at h <;> cases h
  · exact .inl rfl
  · exact .inr ⟨_, rfl⟩

theorem opOf_eq_isEmpty {p : Pos} {ch : Chan} (h : opOf p = .isEmpty ch) :
    p = .query1 .empty ch ∨ ∃ w, p = .query2 .empty ch w := by
  unfold opOf at h
  split at h <;> cases h
  · exact .inl rfl
  · exact .inr ⟨_, rfl⟩

theorem opOf_eq_push {p : Pos} {ch : Chan} (h : opOf p = .push ch 0) :
    (∃ b, p = .push1 ch b) ∨ (∃ b w, p = .push2 ch b w) ∨ (∃ b w, p = .push4 ch b w) ∨
      (∃ b w, p = .push5 ch b w) ∨ p = .violate .pushFull ch := by
  unfold opOf at h
  split at h <;> cases h
  · exact .inl ⟨_, rfl⟩
  · exact .inr (.inl ⟨_, _, rfl⟩)
  · exact .inr (.inr (.inl ⟨_, _, rfl⟩))
  · exact .inr (.inr (.inr (.inl ⟨_, _, rfl⟩)))
  · exact .inr (.inr (.inr (.inr rfl)))

theorem opOf_eq_pop {p : Pos} {ch : Chan} (h : opOf p = .pop ch) :
    p = .pop1 ch ∨ (∃ r, p = .pop2 ch r) ∨ (∃ r, p = .pop4 ch r) ∨ (∃ r b, p = .pop5 ch r b) ∨
      p = .violate .popEmpty ch := by
  unfold opOf at h
  split at h <;> cases h
  · exact .inl rfl
  · exact .inr (.inl ⟨_, rfl⟩)
  · exact .inr (.inr (.inl ⟨_, rfl⟩))
  · exact .inr (.inr (.inr (.inl ⟨_, _, rfl⟩)))
  · exact .inr (.inr (.inr (.inr rfl)))

/-- The operations that call others. -/
def composite : Instr → Bool
  | .isr | .rxBurst | .txBurst | .wrnb _ | .write _ | .rdnb _ | .read _ => true
  | _ => false

theorem composite_callerOp (c : Caller) : composite (callerOp c) = true := by cases c <;> rfl

theorem composite_outerOp {op : Instr} {cs : List Caller} (h : cs ≠ []) : composite (outerOp op cs) = true := by
  induction cs generalizing op with
  | nil => exact absurd rfl h
  | cons c cs ih =>
    cases cs with
    | nil => exact composite_callerOp c
    | cons d ds => exact ih (op := callerOp c) (by simp)

/-- The labelled steps that a composite takes itself are the handler's. -/
theorem isr_of_composite {a : Agent} {p : Pos} (h : composite (opOf p) = true) (hacc : accepts a (opOf p) = true) :
    a = .isr := by
  cases p with
  | isr1 | isr3 | isr4 | rxBurst2 | txBurst3 => exact beq_iff_eq.1 hacc
  | query1 q | query2 q => cases q <;> cases h
  | violate code => cases code <;> cases h
  | _ => cases h

/-! ### What a thread must be left with -/

/-- What the thread of a channel holds when the part called by the innermost of the composites has answered. -/
def answeredOk (s : State) : Chan → List Caller → Prop
  | .tx, .wrnbSnap rest :: _ => txBurstOk s 0 rest.length = true
  | .tx, .wrnbIsFull rest n :: _ | .tx, .wrnbPush rest n :: _ => txBurstOk s n rest.length = true
  | .rx, .rdnbSnap m :: _ => rxBurstOk s 0 m = true
  | .rx, .rdnbIsEmpty m buf :: _ => 0 < m ∧ rxBurstOk s buf.length m = true
  | .rx, .rdnbPop m buf :: _ => rxBurstOk s (buf.length + 1) m = true
  | ch, _ => chanFlowOk s ch = true

/-- What a labelled step inside the composites `cs` must leave of the side of its thread. -/
def ResultOk (ch : Chan) (cs : List Caller) : EventResult → Prop
  | .go s p ds => ds = [] ∧ threadOk s p cs ch = true
  | .answer s _ => answeredOk s ch cs
  | .violated s _ => chanFlowOk s ch = true
  | .park s p => threadOk s p cs ch = true
  | .stuck _ => True

theorem chanFlowOk_own (s : State) (a : Agent) (v : Run) (q : Option Sequencer) (rs : List Response) (ch : Chan) :
    chanFlowOk (s.own a v q rs) ch = chanFlowOk s ch := by cases ch <;> rfl

theorem threadOk_own (s : State) (a : Agent) (v : Run) (q : Option Sequencer) (rs : List Response) (p : Pos)
    (cs : List Caller) (ch : Chan) : threadOk (s.own a v q rs) p cs ch = threadOk s p cs ch := by cases ch <;> rfl

theorem sideOk_own_none {s : State} {ch : Chan} (v : Run) (rs : List Response) (h : chanFlowOk s ch = true) :
    sideOk (s.own (threadOf ch) v none rs) ch = true := by
  rw [sideOk_of_none (s := s.own ..) (PerAgent.get_set_same ..)]
  exact (chanFlowOk_own ..).trans h

theorem sideOk_own_some {s : State} {ch : Chan} {p : Pos} {cs : List Caller} (v : Run) (rs : List Response)
    (h : threadOk s p cs ch = true) (hb : cs.all callerBounded = true) :
    sideOk (s.own (threadOf ch) v (some ⟨p, cs⟩) rs) ch = true := by
  rw [sideOk_of_some (s := s.own ..) (PerAgent.get_set_same ..)]
  exact ⟨(threadOk_own ..).trans h, hb⟩

theorem sideOk_setSeq {s : State} {ch : Chan} {p : Pos} {cs : List Caller} (h : threadOk s p cs ch = true)
    (hb : cs.all callerBounded = true) : sideOk (s.setSeq (threadOf ch) (some ⟨p, cs⟩)) ch = true := by
  rw [State.setSeq_eq_own rfl]
  exact sideOk_own_some _ _ h hb

/-! ### Handing a reply outwards -/

/-- A composite that is called by no burst answers with the flow-control property. -/
theorem answeredOk_of_flow {s : State} {ch : Chan} {op : Instr} {cs : List Caller} (hop : composite op = true)
    (hch : chained op cs = true) (h : chanFlowOk s ch = true) : answeredOk s ch cs := by
  cases cs with
  | nil => cases ch <;> exact h
  | cons c cs =>
    simp only [chained, Bool.and_eq_true, beq_iff_eq] at hch
    rw [← hch.1] at hop
    cases c with
    | wrnbSnap | wrnbIsFull | wrnbPush | rdnbSnap | rdnbIsEmpty | rdnbPop => cases hop
    | _ => cases ch <;> exact h

theorem txBurstOk_of_le {s : State} {n left left' : Nat} (hle : left' ≤ left) (h : txBurstOk s n left = true) :
    txBurstOk s n left' = true := by
  rw [txBurstOk_iff] at h ⊢
  exact ⟨h.1, h.2.1, h.2.2.1, (Nat.add_le_add_left hle n).trans h.2.2.2.1, h.2.2.2.2⟩

theorem rxBurstOk_of_le {s : State} {n left left' : Nat} (hle : left' ≤ left) (h : rxBurstOk s n left = true) :
    rxBurstOk s n left' = true := by
  rw [rxBurstOk, rxBurstFrom_iff] at h ⊢
  exact ⟨h.1, h.2.1, h.2.2.1, (Nat.add_le_add_left hle n).trans h.2.2.2.1, h.2.2.2.2⟩

theorem txThreadOk_fcTxt1 {s : State} (cs : List Caller) (wanted : Bool) {n left : Nat}
    (h : txBurstOk s n left = true) : txThreadOk s .fcTxt1 (.wrnbFc wanted n :: cs) = true :=
  (txThreadOk_wrnbFc ..).2 (.inr ⟨txBurstOk_of_le (Nat.zero_le _) h, .inl rfl⟩)

theorem rxThreadOk_fcRxt1 {s : State} (cs : List Caller) (wanted : Bool) {buf : List Byte} {left : Nat}
    (h : rxBurstOk s buf.length left = true) : rxThreadOk s .fcRxt1 (.rdnbFc wanted buf :: cs) = true :=
  rxBurstOk_of_le (Nat.zero_le _) h

/-- What a composite leaves of the side of its thread when it goes on inside the composites `cs`, or answers. -/
def ResumedOk (s : State) (ch : Chan) (cs : List Caller) : Resumption → Prop
  | .enter p ds => threadOk s p (ds ++ cs) ch = true ∧ ds.all callerBounded = true
  | .answer _ => chanFlowOk s ch = true

/-- How the composites of a `TXT` call go on. -/
theorem resume_txOk {s : State} {c : Caller} {cs : List Caller} (r : Reply)
    (hown : accepts .txt (callerOp c) = true) (hb : callerBounded c = true) (h : answeredOk s .tx (c :: cs)) :
    ResumedOk s .tx cs (resume r c) := by
  cases c with
  | wrnbSnap rest =>
    cases rest with
    | nil => exact ⟨txThreadOk_fcTxt1 cs false (n := 0) h, rfl⟩
    | cons b bs => exact ⟨h, rfl⟩
  | wrnbIsFull rest n =>
    cases rest with
    | nil => exact ⟨txThreadOk_fcTxt1 cs true h, rfl⟩
    | cons b bs =>
      rw [resume]
      split
      · exact ⟨txThreadOk_fcTxt1 cs true h, rfl⟩
      · exact ⟨(txThreadOk_wrnbPush s (.push1 .tx b) cs bs (n + 1)).2 ⟨Nat.succ_pos n, h⟩, rfl⟩
  | wrnbPush rest n =>
    cases rest with
    | nil => exact ⟨txThreadOk_fcTxt1 cs true h, rfl⟩
    | cons b bs => exact ⟨h, rfl⟩
  | wrnbFc wanted n => exact h
  | writeWrnb len rest =>
    have hlen : rest.length ≤ burstMax := of_decide_eq_true hb
    rw [resume]
    split
    · exact ⟨h, by simpa [callerBounded] using hlen⟩
    · split
      · exact h
      · have hdrop : (rest.drop r.value.toNat).length ≤ burstMax := by
          rw [List.length_drop]
          exact (Nat.sub_le _ _).trans hlen
        exact ⟨(txThreadOk_wrnbSnap s (.snap1 .tx) cs _).2 ⟨h, hdrop, nofun⟩,
          by simpa [callerBounded] using hdrop⟩
  | writeWait len rest =>
    have hlen : rest.length ≤ burstMax := of_decide_eq_true hb
    exact ⟨(txThreadOk_wrnbSnap s (.snap1 .tx) cs rest).2 ⟨h, hlen, nofun⟩,
      by simpa [callerBounded] using hlen⟩
  | _ => cases hown

/-- How the composites of an `RXT` call go on. -/
theorem resume_rxOk {s : State} {c : Caller} {cs : List Caller} (r : Reply)
    (hown : accepts .rxt (callerOp c) = true) (hb : callerBounded c = true) (h : answeredOk s .rx (c :: cs)) :
    ResumedOk s .rx cs (resume r c) := by
  cases c with
  | rdnbSnap m =>
    have hburst : rxBurstOk s ([] : List Byte).length m = true := h
    cases m with
    | zero => exact ⟨rxThreadOk_fcRxt1 cs false hburst, rfl⟩
    | succ m => exact ⟨(rxThreadOk_rdnbIsEmpty s (.query1 .empty .rx) cs (m + 1) []).2 ⟨Nat.succ_pos m, hburst⟩, rfl⟩
  | rdnbIsEmpty m buf =>
    obtain ⟨hm, hburst⟩ := h
    rw [resume]
    split
    · exact ⟨rxThreadOk_fcRxt1 cs true hburst, rfl⟩
    · exact ⟨rxBurstOk_of_le (Nat.sub_add_cancel hm).le hburst, rfl⟩
  | rdnbPop m buf =>
    have hburst : rxBurstOk s (buf ++ [r.value.setWidth 8]).length m = true := by
      rw [List.length_append]
      exact h
    cases m with
    | zero => exact ⟨rxThreadOk_fcRxt1 cs true hburst, rfl⟩
    | succ m => exact ⟨(rxThreadOk_rdnbIsEmpty s (.query1 .empty .rx) cs (m + 1) _).2 ⟨Nat.succ_pos m, hburst⟩, rfl⟩
  | rdnbFc wanted buf => exact h
  | readRdnb len =>
    rw [resume]
    split
    · exact ⟨h, by simpa [callerBounded] using hb⟩
    · exact h
  | readWait len =>
    have hlen : len ≤ burstMax := of_decide_eq_true hb
    exact ⟨(rxThreadOk_rdnbSnap s (.snap1 .rx) cs len).2 ⟨h, hlen, nofun⟩,
      by simpa [callerBounded] using hlen⟩
  | _ => cases hown

theorem resume_ok {s : State} {ch : Chan} {c : Caller} {cs : List Caller} (r : Reply)
    (hown : accepts (threadOf ch) (callerOp c) = true) (hb : callerBounded c = true)
    (h : answeredOk s ch (c :: cs)) : ResumedOk s ch cs (resume r c) := by
  cases ch with
  | rx => exact resume_rxOk r hown hb h
  | tx => exact resume_txOk r hown hb h

/-- Handing a reply outwards keeps the side of the thread. -/
theorem unwind_sideOk {s : State} {ch : Chan} {op : Instr} {cs : List Caller} {r : Reply}
    (hch : chained op cs = true) (hown : ∀ c ∈ cs, accepts (threadOf ch) (callerOp c) = true)
    (hb : cs.all callerBounded = true) (h : answeredOk s ch cs) : sideOk (unwind (threadOf ch) cs r s) ch = true := by
  induction cs generalizing op r with
  | nil => exact sideOk_own_none (s := s) .idle _ (by cases ch <;> exact h)
  | cons c cs ih =>
    simp only [chained, List.all_cons, Bool.and_eq_true] at hch hb
    obtain ⟨-, hcs⟩ := hch
    obtain ⟨hbc, hbs⟩ := hb
    have hgo := resume_ok r (hown c (List.mem_cons_self ..)) hbc h
    unfold unwind
    split
    · next p ds hres =>
      rw [hres] at hgo
      exact sideOk_setSeq hgo.1 (by rw [List.all_append, hgo.2, hbs]; rfl)
    · next r' hres =>
      rw [hres] at hgo
      exact ih hcs (fun d hd => hown d (List.mem_cons_of_mem _ hd)) hbs
        (answeredOk_of_flow (composite_callerOp c) hcs hgo)

theorem settle_sideOk {ch : Chan} {op : Instr} {cs : List Caller} {r : EventResult} {t : State}
    (hch : chained op cs = true) (hown : ∀ c ∈ cs, accepts (threadOf ch) (callerOp c) = true)
    (hb : cs.all callerBounded = true) (hr : ResultOk ch cs r) (h : settle (threadOf ch) cs r = .next t) :
    sideOk t ch = true := by
  cases r with
  | go m p ds =>
    cases h
    obtain ⟨rfl, hp⟩ := hr
    exact sideOk_setSeq hp hb
  | answer m r =>
    cases h
    exact unwind_sideOk hch hown hb hr
  | violated m r =>
    cases h
    rw [State.setSeq_eq_own rfl]
    exact sideOk_own_none (s := m) _ _ hr
  | park m p =>
    cases h
    exact sideOk_own_some (s := m) .parked m.responses hr hb
  | stuck f => cases h

/-! ### Labelled steps outside a burst -/

/-- The operation that moves bytes of a channel for its thread. -/
def threadMoves : Chan → Instr
  | .rx => .pop .rx
  | .tx => .push .tx 0

theorem threadOk_nil (s : State) (p : Pos) (ch : Chan) :
    threadOk s p [] ch = true ↔ chanFlowOk s ch = true ∧ opOf p ≠ threadMoves ch := by
  cases ch with
  | rx => exact rxThreadOk_nil s p
  | tx => exact txThreadOk_nil s p

theorem posEvent_chanFlowOk {a : Agent} {s t : State} {p : Pos} {ch : Chan} (h : (posEvent a s p).state = some t)
    (hring : writesRing p = false) (hoff : disables ch p = false) (hs : chanFlowOk s ch = true) :
    chanFlowOk t ch = true := by
  obtain ⟨hcap, -, hwidx, hridx⟩ := (posEvent_frame h).ring hring
  have hcalm : calm t ch = calm s ch := by
    cases ch <;> simp only [calm, isFullNow, isEmptyNow, hcap, hwidx, hridx]
  rw [chanFlowOk_iff] at hs ⊢
  rw [hcalm]
  exact hs.imp_right (posEvent_enabled h hoff)

/-- The steps of a thread that write a ring are those of its own `PUSH` or `POP`. -/
theorem threadMoves_of_writesRing {p : Pos} {ch : Chan} (hacc : accepts (threadOf ch) (opOf p) = true)
    (h : writesRing p = true) : opOf p = threadMoves ch := by
  cases p with
  | push4 d | push5 d => cases ch with
    | rx => cases d <;> cases hacc
    | tx => cases d with
      | rx => cases hacc
      | tx => rfl
  | pop5 d => cases ch with
    | rx => cases d with
      | rx => rfl
      | tx => cases hacc
    | tx => cases d <;> cases hacc
  | construct1 => cases ch <;> cases hacc
  | _ => cases h

theorem not_disables_of_thread {p : Pos} {ch : Chan} (hacc : accepts (threadOf ch) (opOf p) = true) (d : Chan) :
    disables d p = false := by
  by_contra h
  rcases disables_iff.1 (Bool.eq_true_of_not_eq_false h) with ⟨-, u, rfl⟩ | ⟨-, u, rfl⟩ <;>
    cases ch <;> cases hacc

/-- A thread's step that moves no byte keeps the flow-control property, and it does not go on inside a composite of
its own. -/
theorem threadEvent_cases {s : State} {p : Pos} {ch : Chan} {inside : Bool}
    (hp : permitted s (threadOf ch) (opOf p) = true) (hpos : posOk s inside p = true)
    (hmove : opOf p ≠ threadMoves ch) (hs : chanFlowOk s ch = true) :
    (∃ t p', posEvent (threadOf ch) s p = .go t p' [] ∧ opOf p' = opOf p ∧ chanFlowOk t ch = true) ∨
    (∃ t r, posEvent (threadOf ch) s p = .answer t r ∧ chanFlowOk t ch = true) ∨
    (∃ t r, posEvent (threadOf ch) s p = .violated t r ∧ chanFlowOk t ch = true) ∨
    (∃ t d, posEvent (threadOf ch) s p = .park t (.wait2 d) ∧ chanFlowOk t ch = true ∧ opOf p = .wait d) ∨
    ∃ f, posEvent (threadOf ch) s p = .stuck f := by
  have hacc := ((permitted_iff ..).1 hp).1
  have hflow : ∀ t, (posEvent (threadOf ch) s p).state = some t → chanFlowOk t ch = true := fun t ht =>
    posEvent_chanFlowOk ht (Bool.eq_false_iff.2 fun h => hmove (threadMoves_of_writesRing hacc h))
      (not_disables_of_thread hacc ch) hs
  have hok := posEvent_ok hp hpos
  generalize posEvent (threadOf ch) s p = r at hflow hok
  cases hok with
  | go p' ds hm hds hout hpos' =>
    have hnil : ds = [] := by
      by_contra hne
      exact threadOf_ne_isr ch (isr_of_composite (hout ▸ composite_outerOp hne) hacc)
    subst hnil
    exact .inl ⟨_, p', rfl, hout, hflow _ rfl⟩
  | answer r hm => exact .inr (.inl ⟨_, r, rfl, hflow _ rfl⟩)
  | violated code d r => exact .inr (.inr (.inl ⟨_, r, rfl, hflow _ rfl⟩))
  | park d hp => exact .inr (.inr (.inr (.inl ⟨_, d, rfl, hflow _ rfl, by rw [hp]; rfl⟩)))
  | stuck f => exact .inr (.inr (.inr (.inr ⟨f, rfl⟩)))

/-- A step of a thread inside no burst of its own. -/
theorem threadEvent_outside {s : State} {p : Pos} {ch : Chan} {inside : Bool} {cs : List Caller}
    (hp : permitted s (threadOf ch) (opOf p) = true) (hpos : posOk s inside p = true)
    (hmove : opOf p ≠ threadMoves ch) (hs : chanFlowOk s ch = true)
    (hnext : ∀ t p', opOf p' = opOf p → chanFlowOk t ch = true → threadOk t p' cs ch = true)
    (hans : ∀ t, chanFlowOk t ch = true → answeredOk t ch cs) : ResultOk ch cs (posEvent (threadOf ch) s p) := by
  rcases threadEvent_cases hp hpos hmove hs with ⟨t, p', hr, hop, ht⟩ | ⟨t, r, hr, ht⟩ | ⟨t, r, hr, ht⟩ |
    ⟨t, d, hr, ht, hop⟩ | ⟨f, hr⟩ <;> rw [hr]
  · exact ⟨rfl, hnext t p' hop ht⟩
  · exact hans t ht
  · exact ht
  · exact hnext t _ hop.symm ht
  · trivial

/-! ### Labelled steps of a burst -/

section Bursts

variable {s : State} {cs : List Caller}

/-- The latches as `SNAP` leaves them, with nothing moved yet. -/
theorem txBurstOk_latched (hring : RingOk s .tx) (hflow : txFlowOk s = true)
    (hw : (s.snap.get .tx).snapW = s.widx.get .tx) {left : Nat} (hleft : left ≤ burstMax) :
    txBurstOk (s.latchR .tx) 0 left = true := by
  have hsnapR : ((s.latchR .tx).snap.get .tx).snapR = s.ridx.get .tx := by simp
  have hsnapW : ((s.latchR .tx).snap.get .tx).snapW = s.widx.get .tx := by simpa using hw
  rw [txBurstOk_iff, hsnapR, hsnapW]
  refine ⟨by simp, hring.used, ?_, by omega, ?_⟩
  · rw [State.latchR_ridx, usedOf_self]
    simp [usedNow]
  · simp only [txFlowOk, Bool.or_eq_true] at hflow
    exact hflow.elim (fun h => .inr (.inl h)) .inl

/-- At `SNAP.2` the write counter of the RX ring is latched, and the latch of the read counter is what it is about
to be. -/
theorem rxBurstFrom_latched (hring : RingOk s .rx) (hflow : rxFlowOk s = true) {left : Nat}
    (hleft : left ≤ burstMax) : rxBurstFrom s (s.widx.get .rx) (s.ridx.get .rx) 0 left = true := by
  rw [rxBurstFrom_iff]
  refine ⟨by simp, hring.used, ?_, by omega, ?_⟩
  · rw [usedOf_self]
    simp [usedNow]
  · simp only [rxFlowOk, Bool.or_eq_true] at hflow
    exact hflow.elim (fun h => .inr (.inl h)) .inl

theorem txBurstOk_publish (hring : RingOk s .tx) (hroom : isFullNow s .tx = false) {n left : Nat} (hn : 0 < n)
    (h : txBurstOk s (n - 1) (left + 1) = true) :
    txBurstOk (s.setWidx .tx (inc16 (s.widx.get .tx))) n left = true := by
  rw [txBurstOk_iff] at h ⊢
  obtain ⟨hw, hused, hcount, hleft, hoff⟩ := h
  obtain ⟨m, rfl⟩ := Nat.exists_eq_add_of_lt hn
  refine ⟨?_, hused, ?_, by omega, hoff⟩
  · rw [State.setWidx_widx, PerChan.get_set_same, hw]
    simp only [Nat.zero_add, Nat.add_sub_cancel, State.setWidx_snap, inc16]
    bv_omega
  · rw [hring.usedNow_publish hroom]
    simp only [State.setWidx_snap, State.setWidx_ridx]
    omega

theorem rxBurstOk_consume (hdata : isEmptyNow s .rx = false) {n left : Nat}
    (h : rxBurstOk s n (left + 1) = true) :
    rxBurstOk (s.setRidx .rx (inc16 (s.ridx.get .rx))) (n + 1) left = true := by
  rw [rxBurstOk, rxBurstFrom_iff] at h ⊢
  obtain ⟨hr, hused, hcount, hleft, hoff⟩ := h
  have hpos := (isEmptyNow_false_iff s .rx).1 hdata
  refine ⟨?_, hused, ?_, by omega, hoff⟩
  · rw [State.setRidx_ridx, PerChan.get_set_same, hr]
    simp only [State.setRidx_snap, inc16]
    bv_omega
  · rw [RingOk.usedNow_consume hdata]
    simp only [State.setRidx_snap, State.setRidx_widx]
    omega

/-- R151: where `FC.TXT` leaves a disabled interrupt off, the TX ring is empty. -/
theorem txFlowOk_of_decided {n : Nat} (hburst : txBurstOk s n 0 = true)
    (hno : fcTxtDecides s (s.widx.get .tx) (s.ridx.get .tx) = false) : txFlowOk s = true := by
  obtain ⟨-, -, -, -, hoff⟩ := (txBurstOk_iff ..).1 hburst
  rw [txFlowOk, Bool.or_eq_true]
  rcases hoff with hon | hempty | hmoved
  · exact .inr hon
  · left
    simpa [fcTxtDecides, txThreadEnable, hempty, isEmptyNow] using hno
  · left
    simpa [fcTxtDecides, txThreadEnable, hmoved, isEmptyNow] using hno

/-- R151: where `FC.RXT` leaves a disabled interrupt off, the RX ring is full. -/
theorem rxFlowOk_of_decided {w1 : Index} {n : Nat} (hdec : rxDecisionOk s w1 n = true)
    (hno : fcRxtDecides s w1 (s.ridx.get .rx) = false) : rxFlowOk s = true := by
  obtain ⟨-, hused, hoff⟩ := (rxDecisionOk_iff ..).1 hdec
  have hfull : fullAt w1 (s.ridx.get .rx) (s.cap.get .rx) = true → isFullNow s .rx = true := fun h =>
    (isFullNow_iff ..).2 (((fullAt_iff ..).1 h).trans hused)
  rw [rxFlowOk, Bool.or_eq_true]
  rcases hoff with hon | hnow | hfull0 | hmoved
  · exact .inr hon
  · exact .inl hnow
  · exact .inl (hfull (by simpa [fcRxtDecides, rxThreadEnable, hfull0] using hno))
  · exact .inl (hfull (by simpa [fcRxtDecides, rxThreadEnable, hmoved] using hno))

/-- The steps of a `WRNB` inside its burst, and of the `SNAP` before it. -/
theorem txtEvent_ok {p : Pos} {c : Caller} (hring : RingOk s .tx) (hp : permitted s .txt (opOf p) = true)
    (hcall : calledOp c = opOf p) (hown : accepts .txt (callerOp c) = true) (hpos : posOk s true p = true)
    (hs : txThreadOk s p (c :: cs) = true) : ResultOk .tx (c :: cs) (posEvent .txt s p) := by
  cases c with
  | wrnbSnap rest =>
    obtain ⟨hflow, hlen, hlatched⟩ := (txThreadOk_wrnbSnap ..).1 hs
    rcases opOf_eq_snap hcall.symm with rfl | rfl
    · exact ⟨rfl, (txThreadOk_wrnbSnap _ (.snap2 .tx) cs rest).2 ⟨hflow, hlen, fun _ => by simp⟩⟩
    · exact txBurstOk_latched hring hflow (hlatched rfl) hlen
  | wrnbIsFull rest n =>
    rcases opOf_eq_isFull hcall.symm with rfl | ⟨w, rfl⟩
    · exact ⟨rfl, hs⟩
    · exact hs
  | wrnbPush rest n =>
    obtain ⟨hn, hburst⟩ := (txThreadOk_wrnbPush ..).1 hs
    rcases opOf_eq_push hcall.symm with ⟨b, rfl⟩ | ⟨b, w, rfl⟩ | ⟨b, w, rfl⟩ | ⟨b, w, rfl⟩ | rfl
    · exact ⟨rfl, hs⟩
    · obtain ⟨rfl, hroom⟩ := (posOk_push2 ..).1 hpos
      rw [show posEvent .txt s (.push2 .tx b (s.widx.get .tx)) = .go s (.push4 .tx b (s.widx.get .tx)) [] from
        if_neg (Bool.eq_false_iff.1 (hroom rfl))]
      exact ⟨rfl, hs⟩
    · exact ⟨rfl, hs⟩
    · obtain ⟨rfl, hroom, -⟩ := (posOk_push5 ..).1 hpos
      exact txBurstOk_publish hring hroom hn hburst
    · cases (posOk_violate ..).1 hpos
  | wrnbFc wanted n =>
    rcases (txThreadOk_wrnbFc ..).1 hs with rfl | ⟨hburst, rfl | rfl⟩
    · exact Bool.or_true _
    · exact ⟨rfl, (txThreadOk_wrnbFc s _ cs wanted n).2 (.inr ⟨hburst, .inr rfl⟩)⟩
    · rw [posEvent]
      split
      · exact ⟨rfl, (txThreadOk_wrnbFc s _ cs wanted n).2 (.inl rfl)⟩
      · next hno => exact txFlowOk_of_decided hburst (Bool.eq_false_of_not_eq_true hno)
  | writeWrnb | writeWait =>
    exact threadEvent_outside (ch := .tx) hp hpos (by rw [← hcall]; simp [calledOp, threadMoves]) hs
      (fun _ _ _ => id) fun _ => id
  | _ => cases hown

/-- The steps of an `RDNB` inside its burst, and of the `SNAP` before it. -/
theorem rxtEvent_ok {p : Pos} {c : Caller} (hring : RingOk s .rx) (hp : permitted s .rxt (opOf p) = true)
    (hcall : calledOp c = opOf p) (hown : accepts .rxt (callerOp c) = true) (hpos : posOk s true p = true)
    (hs : rxThreadOk s p (c :: cs) = true) : ResultOk .rx (c :: cs) (posEvent .rxt s p) := by
  cases c with
  | rdnbSnap m =>
    obtain ⟨hflow, hlen, hlatched⟩ := (rxThreadOk_rdnbSnap ..).1 hs
    rcases opOf_eq_snap hcall.symm with rfl | rfl
    · refine ⟨rfl, (rxThreadOk_rdnbSnap _ (.snap2 .rx) cs m).2 ⟨hflow, hlen, fun _ => ?_⟩⟩
      rw [show ((s.latchW .rx).snap.get .rx).snapW = s.widx.get .rx by simp]
      exact rxBurstFrom_latched hring hflow hlen
    · exact hlatched rfl
  | rdnbIsEmpty m buf =>
    rcases opOf_eq_isEmpty hcall.symm with rfl | ⟨w, rfl⟩
    · exact ⟨rfl, hs⟩
    · exact (rxThreadOk_rdnbIsEmpty ..).1 hs
  | rdnbPop m buf =>
    rcases opOf_eq_pop hcall.symm with rfl | ⟨r, rfl⟩ | ⟨r, rfl⟩ | ⟨r, b, rfl⟩ | rfl
    · exact ⟨rfl, hs⟩
    · obtain ⟨rfl, hdata⟩ := (posOk_pop2 ..).1 hpos
      rw [show posEvent .rxt s (.pop2 .rx (s.ridx.get .rx)) = .go s (.pop4 .rx (s.ridx.get .rx)) [] from
        if_neg (Bool.eq_false_iff.1 (hdata rfl))]
      exact ⟨rfl, hs⟩
    · exact ⟨rfl, hs⟩
    · obtain ⟨rfl, hdata, -⟩ := (posOk_pop5 ..).1 hpos
      exact rxBurstOk_consume hdata hs
    · cases (posOk_violate ..).1 hpos
  | rdnbFc wanted buf =>
    rcases (rxThreadOk_rdnbFc ..).1 hs with ⟨rfl, hburst⟩ | ⟨w1, rfl, hdec⟩ | rfl
    · refine ⟨rfl, (rxThreadOk_rdnbFc s _ cs wanted buf).2 (.inr (.inl ⟨_, rfl, ?_⟩))⟩
      obtain ⟨hr, -, -, -, hoff⟩ := (rxBurstFrom_iff ..).1 hburst
      exact (rxDecisionOk_iff ..).2 ⟨hr, le_rfl, hoff.imp_right .inr⟩
    · rw [posEvent]
      split
      · exact ⟨rfl, (rxThreadOk_rdnbFc s _ cs wanted buf).2 (.inr (.inr rfl))⟩
      · next hno => exact rxFlowOk_of_decided hdec (Bool.eq_false_of_not_eq_true hno)
    · exact Bool.or_true _
  | readRdnb | readWait =>
    exact threadEvent_outside (ch := .rx) hp hpos (by rw [← hcall]; simp [calledOp, threadMoves]) hs
      (fun _ _ _ => id) fun _ => id
  | _ => cases hown

end Bursts

/-- One event of the thread of a channel keeps its own side. -/
theorem threadEvent_sideOk {s t : State} {ch : Chan} (hs : ringInv s = true)
    (hrun : s.run.get (threadOf ch) = .busy) (hside : sideOk s ch = true)
    (h : agentEvent (threadOf ch) s = .next t) : sideOk t ch = true := by
  obtain ⟨hring, -, hagent⟩ := (ringInv_iff s).1 hs
  obtain ⟨⟨p, cs⟩, hq, hseq⟩ := agentOk_of_busy (hagent (threadOf ch)) hrun
  obtain ⟨hch, hout, hpos⟩ := (seqOk_iff ..).1 hseq
  obtain ⟨hp, hcs⟩ := permitted_chain hch hout
  have hown : ∀ c ∈ cs, accepts (threadOf ch) (callerOp c) = true := fun c hc => ((permitted_iff ..).1 (hcs c hc)).1
  obtain ⟨hthread, hbound⟩ := (sideOk_of_some hq).1 hside
  rw [agentEvent, hq] at h
  refine settle_sideOk hch hown hbound ?_ h
  cases cs with
  | nil =>
    obtain ⟨hflow, hmove⟩ := (threadOk_nil ..).1 hthread
    exact threadEvent_outside hp hpos hmove hflow
      (fun t p' hop ht => (threadOk_nil ..).2 ⟨ht, hop ▸ hmove⟩) fun t ht => by cases ch <;> exact ht
  | cons c cs =>
    simp only [chained, Bool.and_eq_true, beq_iff_eq] at hch
    have hc := hown c (List.mem_cons_self ..)
    cases ch with
    | rx => exact rxtEvent_ok (hring .rx) hp hch.1 hc hpos hthread
    | tx => exact txtEvent_ok (hring .tx) hp hch.1 hc hpos hthread

end Sys2Proof.Machine
end

section
/-! SUPPORT. Commands and steps: every turn of the schedule keeps the flow-control invariant (41_flow_control.md
R158, 20_memory.md R73). -/

namespace Sys2Proof.Machine

/-! ### Events -/

/-- An agent may move in `PREEMPTIVE` mode: it is the handler, or the handler is inside no operation. -/
def MayMove (a : Agent) (s : State) : Prop := a = .isr ∨ s.run.get .isr ≠ .busy

theorem isr_seq_none {s : State} (hs : ringInv s = true) (hrun : s.run.get .isr ≠ .busy) :
    s.seq.get .isr = none := by
  obtain ⟨-, -, hagent⟩ := (ringInv_iff s).1 hs
  rcases (agentOk_iff ..).1 (hagent .isr) with ⟨-, h⟩ | ⟨h, -⟩ | ⟨-, q, -, -, ch, -, hch⟩
  · exact h
  · exact absurd h hrun
  · exact absurd hch.symm (threadOf_ne_isr ch)

/-- The handler, inside no operation, stays so while another agent moves. -/
theorem Rights.isr_idle {a : Agent} {s t : State} (h : Rights a s t) (ha : a ≠ .isr) (hrun : s.run.get .isr ≠ .busy) :
    t.run.get .isr ≠ .busy := by
  intro hbusy
  obtain ⟨-, ch, hch, -⟩ := h.run .isr ha.symm fun heq => hrun (heq ▸ hbusy)
  exact threadOf_ne_isr ch hch.symm

theorem FlowBase.congr {s t : State} (h : FlowBase s) (hring : ringInv t = true) (hkeeps : Keeps s t)
    (hsched : ∀ x ∈ t.sched, x ∈ s.sched) (hports : ∀ a, ∀ c ∈ t.ports.get a, c ∈ s.ports.get a) : FlowBase t where
  ring := hring
  mode := hkeeps.mode.trans h.mode
  cap := fun ch => hkeeps.cap ch (h.cap ch) ▸ h.cap ch
  sched := fun x hx => h.sched x (hsched x hx)
  ports := fun ch c hc => h.ports ch c (hports _ c hc)

/-- A change of the environment, such as a command taken off its port. -/
theorem SameBlock.flowInv_kept {s t : State} (h : SameBlock s t) (hsched : ∀ x ∈ t.sched, x ∈ s.sched)
    (hports : ∀ a, ∀ c ∈ t.ports.get a, c ∈ s.ports.get a) (hs : flowInv s = true) : flowInv t = true := by
  rw [flowInv_iff] at hs ⊢
  obtain ⟨hbase, hside, hheld⟩ := hs
  refine ⟨hbase.congr (h.ringInv_kept hbase.ring) h.keeps hsched hports, fun ch => ?_, ?_⟩
  · refine Served.sideOk (.same ⟨by rw [h.cap], by rw [h.widx], by rw [h.ridx], by rw [h.snap], ?_⟩)
      (((ringInv_iff s).1 hbase.ring).1 ch) (by rw [h.seq]) (hside ch)
    cases ch with
    | rx => exact h.rxie.trans
    | tx => exact h.txie.trans
  · unfold handlerOk at hheld ⊢
    rw [h.seq]
    cases hq : s.seq.get .isr with
    | none => rfl
    | some q =>
      rw [hq] at hheld
      have hcalm : ∀ ch, isFullNow t ch = isFullNow s ch ∧ isEmptyNow t ch = isEmptyNow s ch := fun ch =>
        ⟨h.isFullNow_eq ch, h.isEmptyNow_eq ch⟩
      unfold isrFlowOk at hheld ⊢
      rw [h.widx, (hcalm .rx).1, (hcalm .tx).2]
      exact hheld

theorem agentEvent_ringInv {a : Agent} {s t : State} (hs : ringInv s = true) (hrun : s.run.get a = .busy)
    (h : agentEvent a s = .next t) : ringInv t = true :=
  (Moves.event a (.refl s) hrun h).legal hs |>.ringInv_kept hs

/-- One event of an agent that may move. -/
theorem agentEvent_flowInv {a : Agent} {s t : State} (hmay : MayMove a s) (hrun : s.run.get a = .busy)
    (hs : flowInv s = true) (h : agentEvent a s = .next t) : flowInv t = true ∧ MayMove a t := by
  rw [flowInv_iff] at hs ⊢
  obtain ⟨hbase, hside, hheld⟩ := hs
  obtain ⟨hring, -, -⟩ := (ringInv_iff s).1 hbase.ring
  obtain ⟨hports, hsched, hothers⟩ := agentEvent_others h
  have hok := ((ringInv_iff_base s a).1 hbase.ring).2
  have hrights := (agentEvent_ok hok hrun h).1.rights
  refine ⟨⟨hbase.congr (agentEvent_ringInv hbase.ring hrun h) (agentEvent_keeps h).1
    (fun _ hx => hsched ▸ hx) (fun _ _ hc => hports ▸ hc), fun ch => ?_, ?_⟩, ?_⟩
  · by_cases ha : a = threadOf ch
    · subst ha
      exact threadEvent_sideOk hbase.ring hrun (hside ch) h
    · exact (agentEvent_served hbase.ring hheld (hbase.cap ch) hrun ha h).sideOk (hring ch)
        (hothers _ (Ne.symm ha)).1 (hside ch)
  · by_cases ha : a = .isr
    · subst ha
      obtain ⟨q, hq, -⟩ := agentOk_of_busy hok hrun
      rw [handlerOk, hq] at hheld
      exact isrEvent_handlerOk hbase.ring hrun hq hheld h
    · rw [handlerOk, (hothers .isr (Ne.symm ha)).1, isr_seq_none hbase.ring (hmay.resolve_left ha)]
  · exact or_iff_not_imp_left.2 fun ha => hrights.isr_idle ha (hmay.resolve_left ha)

theorem agentEvents_flowInv {a : Agent} (n : Nat) {s t : State} (hmay : MayMove a s) (hs : flowInv s = true)
    (h : agentEvents a n s = .next t) : flowInv t = true := by
  induction n generalizing s with
  | zero =>
    cases h
    exact hs
  | succ n ih =>
    rw [agentEvents] at h
    split at h
    · next hrun =>
      split at h
      · next u hu =>
        obtain ⟨hflow, hmay'⟩ := agentEvent_flowInv hmay hrun hs hu
        exact ih hmay' hflow h
      · cases h
      · cases h
    · cases h
      exact hs

/-! ### Commands -/

/-- The operations a thread may be asked for: no lone move of a byte, and bursts that fit. -/
def burstInstrOk : Chan → Instr → Prop
  | .tx, .push _ _ | .rx, .pop _ => False
  | .tx, .wrnb len | .tx, .write len | .rx, .rdnb len | .rx, .read len => len ≤ burstMax
  | _, _ => True

theorem burstInstrOk_of_command {ch : Chan} {c : Command} {i : Instr} (h : commandOk ch c = true)
    (hdec : decode c.word = .ok i) : burstInstrOk ch i := by
  cases ch with
  | rx =>
    rw [commandOk, rxCommandOk, hdec] at h
    cases i with
    | pop => cases h
    | rdnb len | read len => exact of_decide_eq_true (p := len ≤ burstMax) h
    | _ => trivial
  | tx =>
    rw [commandOk, txCommandOk, hdec] at h
    cases i with
    | push => cases h
    | wrnb len | write len => exact of_decide_eq_true (p := len ≤ burstMax) h
    | _ => trivial

/-- Where a thread's operation starts. -/
theorem entry_resumedOk {s : State} {ch : Chan} {i : Instr} {bytes : List Byte}
    (hacc : accepts (threadOf ch) i = true) (hi : burstInstrOk ch i)
    (hlen : ∀ len, i = .wrnb len ∨ i = .write len → bytes.length = len) (hs : chanFlowOk s ch = true) :
    ResumedOk s ch [] (entry bytes i) := by
  cases i with
  | push d b =>
    cases ch with
    | rx => cases d <;> cases hacc
    | tx => exact hi.elim
  | pop d =>
    cases ch with
    | rx => exact hi.elim
    | tx => cases d <;> cases hacc
  | isr | errChk | rxBurst | txBurst => cases ch <;> cases hacc
  | wrnb len =>
    obtain rfl : ch = .tx := by cases ch with | rx => cases hacc | tx => rfl
    have hbytes : bytes.length ≤ burstMax := (hlen len (.inl rfl)).trans_le hi
    exact ⟨(txThreadOk_wrnbSnap s (.snap1 .tx) [] bytes).2 ⟨hs, hbytes, nofun⟩, rfl⟩
  | write len =>
    obtain rfl : ch = .tx := by cases ch with | rx => cases hacc | tx => rfl
    have hbytes : bytes.length ≤ burstMax := (hlen len (.inr rfl)).trans_le hi
    rw [entry]
    split
    · exact hs
    · exact ⟨(txThreadOk_wrnbSnap s (.snap1 .tx) [] bytes).2 ⟨hs, hbytes, nofun⟩,
        by simpa [callerBounded] using hbytes⟩
  | rdnb len =>
    obtain rfl : ch = .rx := by cases ch with | rx => rfl | tx => cases hacc
    exact ⟨(rxThreadOk_rdnbSnap s (.snap1 .rx) [] len).2 ⟨hs, hi, nofun⟩, rfl⟩
  | read len =>
    obtain rfl : ch = .rx := by cases ch with | rx => rfl | tx => cases hacc
    have hlen : len ≤ burstMax := hi
    exact ⟨(rxThreadOk_rdnbSnap s (.snap1 .rx) [] len).2 ⟨hs, hlen, nofun⟩, by simpa [callerBounded] using hlen⟩
  | _ => exact ⟨(threadOk_nil ..).2 ⟨hs, by cases ch <;> nofun⟩, rfl⟩

/-- No operation starts in the middle of a policy. -/
theorem entry_held {i : Instr} {bytes : List Byte} {p : Pos} {cs : List Caller} (h : entry bytes i = .enter p cs)
    (s : State) : isrFlowOk s p = true := by
  cases i with
  | write =>
    rw [entry] at h
    split at h <;> cases h
    rfl
  | _ =>
    cases h
    rfl

theorem entryBytes_length {i : Instr} {s : State} {len : Nat} (h : i = .wrnb len ∨ i = .write len) :
    (entryBytes i s).1.length = len := by
  rcases h with rfl | rfl <;> exact callerBytes_length ..

/-- A change of an agent's own entries. -/
theorem flowInv_own {s : State} {a : Agent} {v : Run} {q : Option Sequencer} {rs : List Response}
    (hs : flowInv s = true) (hring : ringInv (s.own a v q rs) = true)
    (hthread : ∀ ch, a = threadOf ch → sideOk (s.own a v q rs) ch = true)
    (hheld : a = .isr → handlerOk (s.own a v q rs) = true) : flowInv (s.own a v q rs) = true := by
  rw [flowInv_iff] at hs ⊢
  obtain ⟨hbase, hside, hisr⟩ := hs
  obtain ⟨hr, -, -⟩ := (ringInv_iff s).1 hbase.ring
  have hseq : ∀ b, b ≠ a → (s.own a v q rs).seq.get b = s.seq.get b := fun b hb => PerAgent.get_set_ne _ _ _ _ hb
  refine ⟨hbase.congr hring (.of_same rfl rfl rfl) (fun _ => id) (fun _ _ => id), fun ch => ?_, ?_⟩
  · by_cases ha : a = threadOf ch
    · exact hthread ch ha
    · exact Served.sideOk (.same ((SameSide.refl ..).own ..)) (hr ch) (hseq _ (Ne.symm ha)) (hside ch)
  · by_cases ha : a = .isr
    · exact hheld ha
    · rw [handlerOk, hseq _ (Ne.symm ha)]
      exact hisr

theorem chanFlowOk_of_idle {s : State} {ch : Chan} (hs : flowInv s = true) (hrun : s.run.get (threadOf ch) = .idle) :
    chanFlowOk s ch = true := by
  obtain ⟨hbase, hside, -⟩ := (flowInv_iff s).1 hs
  exact (sideOk_of_none (seq_none_of_idle ((ringInv_iff_base s _).1 hbase.ring).2 hrun)).1 (hside ch)

theorem startOp_ringInv {i : Instr} {s t : State} (hs : ringInv s = true) (h : startOp i s = .next t) :
    ringInv t = true :=
  ((Moves.command (.refl s) (startOp_performed h)).legal hs).ringInv_kept hs

/-- Accepting an operation. -/
theorem startOp_flowInv {i : Instr} {s t : State} (hi : ∀ ch, s.issuer = threadOf ch → burstInstrOk ch i)
    (hs : flowInv s = true) (h : startOp i s = .next t) : flowInv t = true := by
  have hring := startOp_ringInv ((flowInv_iff s).1 hs).1.ring h
  have hanswer : ∀ r, flowInv (s.respond s.issuer r) = true := fun r =>
    (SameBlock.respond ..).flowInv_kept (fun _ => id) (fun _ _ => id) hs
  rw [startOp] at h
  rcases accept_cases _ _ _ _ h with ⟨-, ho⟩ | ⟨-, -, ho⟩ | ⟨-, -, -, ho⟩ | ⟨⟨hacc, hidle, -⟩, ho⟩ | ⟨-, -, -, -, ho⟩
  · cases ho
    exact hanswer _
  · cases ho
    exact hanswer _
  · cases ho
    exact hanswer _
  · obtain ⟨hsame, hissuer⟩ := entryBytes_same i s
    have hlen : ∀ len, i = .wrnb len ∨ i = .write len → (entryBytes i s).1.length = len := fun _ =>
      entryBytes_length
    have hu : flowInv (entryBytes i s).2 = true := by
      refine hsame.flowInv_kept ?_ ?_ hs <;> rcases entryBytes_cases i s with he | ⟨len, he⟩ <;> rw [he]
      · exact fun _ => id
      · exact fun _ => id
      · exact fun _ _ => id
      · exact fun _ _ => id
    have hrun : (entryBytes i s).2.run.get s.issuer = .idle := by rw [hsame.run, hidle]
    generalize entryBytes i s = e at ho hissuer hlen hu hrun
    obtain ⟨bytes, u⟩ := e
    dsimp only at ho hissuer hlen hu hrun
    have hentry : ∀ ch, s.issuer = threadOf ch → ResumedOk u ch [] (entry bytes i) := fun ch ha =>
      entry_resumedOk (ha ▸ hacc) (hi ch ha) hlen (chanFlowOk_of_idle hu (ha ▸ hrun))
    rw [hissuer] at ho
    cases he : entry bytes i with
    | enter p cs =>
      rw [he] at ho hentry
      obtain rfl : t = u.own s.issuer .busy (some ⟨p, cs⟩) u.responses := Host.Outcome.next.inj ho
      refine flowInv_own hu hring (fun ch ha => ?_) fun ha => ?_
      · rw [ha]
        exact sideOk_own_some _ _ (by simpa using (hentry ch ha).1) (hentry ch ha).2
      · rw [ha]
        exact entry_held he u
    | answer r =>
      rw [he] at ho hentry
      obtain rfl : t = u.own s.issuer .idle none (u.respond s.issuer r).responses := Host.Outcome.next.inj ho
      refine flowInv_own hu hring (fun ch ha => ?_) fun ha => ?_
      · rw [ha]
        exact sideOk_own_none _ _ (hentry ch ha)
      · rw [ha]
        rfl
  · cases ho

theorem startOp_mayMove {i : Instr} {s t : State} (hmay : MayMove s.issuer s) (h : startOp i s = .next t) :
    MayMove s.issuer t := by
  refine or_iff_not_imp_left.2 fun ha => ?_
  have hrun := hmay.resolve_left ha
  rcases startOp_performed h with hsame | ⟨-, hends, -⟩
  · rw [hsame.run]
    exact hrun
  · exact hends.rights.isr_idle ha hrun

/-- A whole operation is its events (R70), each of which keeps the invariant. -/
theorem exec_flowInv {i : Instr} {s t : State} (hwf : i.wellFormed = true) (hmay : MayMove s.issuer s)
    (hi : ∀ ch, s.issuer = threadOf ch → burstInstrOk ch i) (hs : flowInv s = true) (h : exec i s = .next t) :
    flowInv t = true := by
  by_cases hrun : s.run.get s.issuer = .idle
  · obtain ⟨hbase, -, -⟩ := (flowInv_iff s).1 hs
    have hnone := seq_none_of_idle ((ringInv_iff_base s _).1 hbase.ring).2 hrun
    obtain ⟨n, hn⟩ := Proofs.eventRunEqualsMeaning i s hwf hrun hnone
    rw [← hn, startThenEvents] at h
    split at h
    · next u hu => exact agentEvents_flowInv n (startOp_mayMove hmay hu) (startOp_flowInv hi hs hu) h
    · cases h
    · cases h
  · have heq : exec i s = startOp i s := by
      rw [exec_eq_perform]
      exact accept_of_not_ready (fun hready => hrun hready.2.1) _ _
    exact startOp_flowInv hi hs (heq ▸ h)

/-! ### Turns -/

section

variable {f : Instr → State → Host.Outcome State Fault Refusal}
  (hf : ∀ {i : Instr} {s t : State}, i.wellFormed = true → MayMove s.issuer s →
    (∀ ch, s.issuer = threadOf ch → burstInstrOk ch i) → flowInv s = true → f i s = .next t → flowInv t = true)
include hf

theorem portTurn_flowInv {a : Agent} {s t : State} (hmay : MayMove a s) (hs : flowInv s = true)
    (h : portTurn f a s = .next t) : flowInv t = true := by
  unfold portTurn at h
  split at h
  · cases h
    exact hs
  · next c rest hport =>
    have hsub : ∀ b, ∀ x ∈ (takeCommand s a c rest).ports.get b, x ∈ s.ports.get b := by
      intro b x hx
      by_cases hb : b = a
      · subst hb
        rw [hport]
        exact List.mem_cons_of_mem _ (by simpa [takeCommand] using hx)
      · simpa [takeCommand, hb] using hx
    have hu := (takeCommand_same s a c rest).flowInv_kept (fun _ => id) hsub hs
    split at h
    · next i hdec =>
      refine hf (Proofs.encodeOfDecode c.word i hdec).1 hmay (fun ch ha => ?_) hu h
      have ha : a = threadOf ch := ha
      refine burstInstrOk_of_command (((flowInv_iff s).1 hs).1.ports ch c ?_) hdec
      rw [← ha, hport]
      exact List.mem_cons_self ..
    · cases h
      exact (SameBlock.respond ..).flowInv_kept (fun _ => id) (fun _ _ => id) hu

theorem agentTurn_flowInv {a : Agent} {s t : State} (hmay : MayMove a s) (hs : flowInv s = true)
    (h : agentTurn f a s = .next t) : flowInv t = true := by
  unfold agentTurn at h
  split at h
  · exact portTurn_flowInv hf hmay hs h
  · next hrun => exact (agentEvent_flowInv hmay hrun hs h).1
  · cases h
    exact hs
  · exact portTurn_flowInv hf hmay hs h

end

/-- One step: the handler's next event where it holds the block, else the scheduled turn. -/
theorem step_flowInv {s t : State} (hs : flowInv s = true) (h : step s = .next t) : flowInv t = true := by
  obtain ⟨hbase, -, -⟩ := (flowInv_iff s).1 hs
  have hheld : ∀ {u}, isrHolds s = true → agentEvent .isr s = .next u → flowInv u = true := fun hi hu =>
    (agentEvent_flowInv (.inl rfl) (isrHolds_busy hi) hs hu).1
  have hfree : ∀ a ts, isrHolds s ≠ true → MayMove a { s with sched := ts } := fun a ts hi =>
    .inr fun hrun => hi (by simp [isrHolds, hbase.mode, show s.run.get .isr = .busy from hrun])
  have hsched : ∀ x ts, s.sched = x :: ts → flowInv { s with sched := ts } = true := fun x ts hx =>
    SameBlock.flowInv_kept (s := s) (by constructor <;> rfl) (fun _ hy => hx ▸ List.mem_cons_of_mem x hy)
      (fun _ _ => id) hs
  rw [step, turn] at h
  split at h
  · next ts hts => exact absurd rfl (hbase.sched .powerOn (hts ▸ List.mem_cons_self ..))
  · split at h
    · next hi => exact hheld hi h
    · cases h
      exact hs
  · next a ts hts =>
    split at h
    · next hi => exact hheld hi h
    · next hi => exact agentTurn_flowInv exec_flowInv (hfree a ts hi) (hsched _ ts hts) h
  · next a ts hts =>
    split at h
    · next hi => exact hheld hi h
    · next hi => exact agentTurn_flowInv (fun _ _ => startOp_flowInv) (hfree a ts hi) (hsched _ ts hts) h

/-! ### Outside a burst -/

/-- What holds of the transmit side with no burst open (R158). -/
theorem txFlowOk_of_no_burst {s : State} (hside : sideOk s .tx = true) (hout : inTxBurst s = false) :
    txFlowOk s = true := by
  cases hq : s.seq.get .txt with
  | none => exact (sideOk_of_none (ch := .tx) hq).1 hside
  | some q =>
    obtain ⟨p, cs⟩ := q
    obtain ⟨hthread, -⟩ := (sideOk_of_some (ch := .tx) hq).1 hside
    rw [inTxBurst, hq] at hout
    cases cs with
    | nil => exact ((threadOk_nil ..).1 hthread).1
    | cons c cs =>
      cases c with
      | wrnbSnap rest => exact ((txThreadOk_wrnbSnap s p cs rest).1 hthread).1
      | wrnbIsFull | wrnbPush | wrnbFc => cases hout
      | _ => exact hthread

theorem rxFlowOk_of_no_burst {s : State} (hside : sideOk s .rx = true) (hout : inRxBurst s = false) :
    rxFlowOk s = true := by
  cases hq : s.seq.get .rxt with
  | none => exact (sideOk_of_none (ch := .rx) hq).1 hside
  | some q =>
    obtain ⟨p, cs⟩ := q
    obtain ⟨hthread, -⟩ := (sideOk_of_some (ch := .rx) hq).1 hside
    rw [inRxBurst, hq] at hout
    cases cs with
    | nil => exact ((threadOk_nil ..).1 hthread).1
    | cons c cs =>
      cases c with
      | rdnbSnap m => exact ((rxThreadOk_rdnbSnap s p cs m).1 hthread).1
      | rdnbIsEmpty | rdnbPop | rdnbFc => cases hout
      | _ => exact hthread

end Sys2Proof.Machine
end

section
/-! SUPPORT. The flow-control operations as commands (41_flow_control.md R150 to R157): what each leaves of every
element it writes, and its frame. -/

namespace Sys2Proof.Machine

/-! ### A command and its answer -/

theorem respond_ok0 (s : State) (a : Agent) :
    s.respond a Reply.ok0 = { s with responses := ⟨a, 0, []⟩ :: s.responses } := by
  rw [State.respond, ok0_word]
  rfl

/-- Every next state of an operation that always answers: only the response is written where R96 answers for it. -/
theorem exec_next_of_reply {i : Instr} {s m t : State} {r : Reply} (h : exec i s = .next t)
    (hreply : meaning i s.issuer s = .reply m r) : ∃ u r, (u = s ∨ u = m) ∧ t = u.respond s.issuer r := by
  rcases exec_answered_or_ready h with ⟨r, ht⟩ | ⟨-, hdone⟩
  · exact ⟨s, r, .inl rfl, ht⟩
  · rw [hreply, complete_reply] at hdone
    cases hdone
    exact ⟨m, r, .inr rfl, rfl⟩

/-! ### The wake signal and the thresholds -/

theorem raiseWake_wake_eq (s : State) (ch : Chan) :
    (s.raiseWake ch).wake = s.wake.set ch (if s.wake.get ch = .parked then .idle else .raised) := by
  rcases raiseWake_cases s ch with ⟨hw, h⟩ | ⟨hw, h⟩ | ⟨hw, h⟩ <;> rw [h, hw]
  · rfl
  · rw [if_neg (by decide), ← hw, PerChan.set_get]
  · rfl

theorem raiseWake_run_eq (s : State) (ch : Chan) :
    (s.raiseWake ch).run = if s.wake.get ch = .parked then s.run.set (threadOf ch) .busy else s.run := by
  rcases raiseWake_cases s ch with ⟨hw, h⟩ | ⟨hw, h⟩ | ⟨hw, h⟩ <;> rw [h, hw] <;> rfl

theorem raiseWake_frame (s : State) (ch : Chan) :
    s.raiseWake ch = { s with wake := (s.raiseWake ch).wake, run := (s.raiseWake ch).run } := by
  rcases raiseWake_cases s ch with ⟨-, h⟩ | ⟨-, h⟩ | ⟨-, h⟩ <;> rw [h] <;> rfl

theorem halfOf_toNat (cap : Index) : (halfOf cap).toNat = cap.toNat / 2 := BitVec.toNat_udiv

/-! ### `SNAP` -/

theorem latch_both (s : State) (ch : Chan) :
    (s.latchW ch).latchR ch = { s with snap := s.snap.set ch ⟨s.widx.get ch, s.ridx.get ch⟩ } := by
  cases ch <;> rfl

/-! ### The thread side: `FC.TXT` and `FC.RXT` -/

theorem fcTxtDecides_iff (s : State) (w1 r1 : Index) :
    fcTxtDecides s w1 r1 = true ↔ w1 ≠ r1 ∧ (s.snap.tx.snapW = s.snap.tx.snapR ∨ r1 ≠ s.snap.tx.snapR) := by
  rw [fcTxtDecides, txThreadEnable, Bool.and_eq_true, Bool.or_eq_true, Bool.not_eq_true', ← Bool.not_eq_true,
    emptyAt_iff, emptyAt_iff, bne_iff_ne]
  rfl

theorem fcRxtDecides_iff (s : State) (w1 r1 : Index) :
    fcRxtDecides s w1 r1 = true ↔ (w1 - r1).toNat < s.cap.rx.toNat ∧
      (s.cap.rx.toNat ≤ (s.snap.rx.snapW - s.snap.rx.snapR).toNat ∨ w1 ≠ s.snap.rx.snapW) := by
  rw [fcRxtDecides, rxThreadEnable, Bool.and_eq_true, Bool.or_eq_true, Bool.not_eq_true', ← Bool.not_eq_true,
    fullAt_iff, fullAt_iff, bne_iff_ne, not_le]
  rfl

/-- What `FC.TXT` leaves. -/
def fcTxtState (s : State) : State :=
  if fcTxtDecides s (s.widx.get .tx) (s.ridx.get .tx) then s.enableTx else s

/-- What `FC.RXT` leaves. -/
def fcRxtState (s : State) : State :=
  if fcRxtDecides s (s.widx.get .rx) (s.ridx.get .rx) then s.enableRx else s

/-- The test of `FC.TXT` as a condition on the counters. -/
theorem fcTxtState_eq (s : State) :
    fcTxtState s = if s.widx.tx ≠ s.ridx.tx ∧ (s.snap.tx.snapW = s.snap.tx.snapR ∨ s.ridx.tx ≠ s.snap.tx.snapR)
      then s.enableTx else s :=
  if_congr (fcTxtDecides_iff s _ _) rfl rfl

/-- The test of `FC.RXT` as a condition on the counters. -/
theorem fcRxtState_eq (s : State) :
    fcRxtState s = if (s.widx.rx - s.ridx.rx).toNat < s.cap.rx.toNat ∧
        (s.cap.rx.toNat ≤ (s.snap.rx.snapW - s.snap.rx.snapR).toNat ∨ s.widx.rx ≠ s.snap.rx.snapW)
      then s.enableRx else s :=
  if_congr (fcRxtDecides_iff s _ _) rfl rfl

theorem fcTxtOp_reply (s : State) : fcTxtOp s = .reply (fcTxtState s) Reply.ok0 := rfl

theorem fcRxtOp_reply (s : State) : fcRxtOp s = .reply (fcRxtState s) Reply.ok0 := rfl

theorem fcTxtState_frame (s : State) :
    fcTxtState s = { s with txie := (fcTxtState s).txie, trace := (fcTxtState s).trace } := by
  rw [fcTxtState]
  split <;> rfl

theorem fcRxtState_frame (s : State) :
    fcRxtState s = { s with rxie := (fcRxtState s).rxie, trace := (fcRxtState s).trace } := by
  rw [fcRxtState]
  split <;> rfl

/-! ### The interrupt side: `FC.TXI` -/

/-- What `FC.TXI` leaves. -/
def fcTxiState (s : State) : State :=
  let s1 := if txIsrDisable (s.widx.get .tx) (s.ridx.get .tx) then s.disableTx else s
  if txIsrWake (s.widx.get .tx) (s.ridx.get .tx) (s.cap.get .tx) then s1.raiseWake .tx else s1

theorem fcTxiOp_reply (s : State) : fcTxiOp s = .reply (fcTxiState s) Reply.ok0 := rfl

/-- The tests of `FC.TXI` as conditions on the level. -/
theorem fcTxiState_eq (s : State) :
    fcTxiState s =
      if usedNow s .tx ≤ s.cap.tx.toNat / 2 then (if isEmptyNow s .tx then s.disableTx else s).raiseWake .tx
      else if isEmptyNow s .tx then s.disableTx else s := by
  have hwake : txIsrWake (s.widx.get .tx) (s.ridx.get .tx) (s.cap.get .tx) = true ↔
      usedNow s .tx ≤ s.cap.tx.toNat / 2 := by
    rw [txIsrWake, decide_eq_true_eq, halfOf_toNat]
    rfl
  exact if_congr hwake rfl rfl

section

variable (s : State)

theorem disableTx_ite_frame (c : Prop) {_ : Decidable c} :
    (if c then s.disableTx else s) =
      { s with
        txie := s.txie && decide ¬c
        trace := if c then .disableTransmitInterrupt :: s.trace else s.trace } := by
  split <;> simp_all [State.disableTx]

theorem fcTxiState_txie : (fcTxiState s).txie = (s.txie && !isEmptyNow s .tx) := by
  rw [fcTxiState_eq, disableTx_ite_frame]
  split <;> simp

theorem fcTxiState_trace :
    (fcTxiState s).trace = if isEmptyNow s .tx then .disableTransmitInterrupt :: s.trace else s.trace := by
  rw [fcTxiState_eq, disableTx_ite_frame]
  split <;> simp

theorem fcTxiState_wake :
    (fcTxiState s).wake = if usedNow s .tx ≤ s.cap.tx.toNat / 2
      then s.wake.set .tx (if s.wake.tx = .parked then .idle else .raised) else s.wake := by
  rw [fcTxiState_eq, disableTx_ite_frame]
  split
  · exact raiseWake_wake_eq _ .tx
  · rfl

theorem fcTxiState_run :
    (fcTxiState s).run = if usedNow s .tx ≤ s.cap.tx.toNat / 2 ∧ s.wake.tx = .parked
      then s.run.set .txt .busy else s.run := by
  rw [fcTxiState_eq, disableTx_ite_frame, ite_and]
  split
  · exact raiseWake_run_eq _ .tx
  · rfl

theorem fcTxiState_frame :
    fcTxiState s = { s with
      txie := (fcTxiState s).txie, wake := (fcTxiState s).wake, run := (fcTxiState s).run
      trace := (fcTxiState s).trace } := by
  rw [fcTxiState_eq, disableTx_ite_frame]
  split
  · rw [raiseWake_frame]
  · rfl

end

/-! ### The interrupt side: `FC.RXI` -/

theorem stopTimer_frame (s : State) : s.stopTimer = { s with tmr := .idle, trace := s.stopTimer.trace } := by
  rcases stopTimer_cases s with ⟨hidle, h⟩ | ⟨-, h⟩ <;> rw [h]
  rw [← hidle]

theorem armTimer_frame (s : State) : s.armTimer = { s with tmr := .armed, trace := s.armTimer.trace } := by
  rcases armTimer_cases s with ⟨harmed, h⟩ | ⟨-, h⟩ <;> rw [h]
  rw [← harmed]

/-- What `FC.RXI` leaves. -/
def fcRxiState (s : State) : State :=
  let s1 := if rxIsrDisable (s.widx.get .rx) (s.ridx.get .rx) (s.cap.get .rx) then s.disableRx else s
  if rxIsrWake (s.widx.get .rx) (s.ridx.get .rx) (s.cap.get .rx) then s1.stopTimer.raiseWake .rx
  else if rxIsrArm (s.widx.get .rx) (s.ridx.get .rx) (s.cap.get .rx) then s1.armTimer
  else s1

/-- The tests of `FC.RXI` as conditions on the level. -/
theorem fcRxiState_eq (s : State) :
    fcRxiState s =
      if s.cap.rx.toNat / 2 ≤ usedNow s .rx then
        (if isFullNow s .rx then s.disableRx else s).stopTimer.raiseWake .rx
      else if usedNow s .rx = 0 then if isFullNow s .rx then s.disableRx else s
      else (if isFullNow s .rx then s.disableRx else s).armTimer := by
  have hwake : rxIsrWake (s.widx.get .rx) (s.ridx.get .rx) (s.cap.get .rx) = true ↔
      s.cap.rx.toNat / 2 ≤ usedNow s .rx := by
    rw [rxIsrWake, decide_eq_true_eq, halfOf_toNat]
    rfl
  have harm : rxIsrArm (s.widx.get .rx) (s.ridx.get .rx) (s.cap.get .rx) = true ↔
      ¬(usedNow s .rx = 0 ∨ s.cap.rx.toNat / 2 ≤ usedNow s .rx) := by
    rw [rxIsrArm, Bool.and_eq_true, decide_eq_true_eq, halfOf_toNat, Bool.not_eq_true', ← Bool.not_eq_true,
      emptyAt_iff_used, not_or, not_le]
    rfl
  rw [fcRxiState, if_congr hwake rfl rfl, if_congr harm rfl rfl]
  by_cases hhigh : s.cap.rx.toNat / 2 ≤ usedNow s .rx
  · rw [if_pos hhigh, if_pos hhigh]
    rfl
  · rw [if_neg hhigh, if_neg hhigh]
    by_cases hzero : usedNow s .rx = 0
    · rw [if_neg (not_not.2 (.inl hzero)), if_pos hzero]
      rfl
    · rw [if_pos (not_or.2 ⟨hzero, hhigh⟩), if_neg hzero]
      rfl

theorem fcRxiOp_reply (s : State) : fcRxiOp s = .reply (fcRxiState s) Reply.ok0 := rfl

section

variable (s : State)

theorem disableRx_ite_frame (c : Prop) {_ : Decidable c} :
    (if c then s.disableRx else s) =
      { s with
        rxie := s.rxie && decide ¬c
        trace := if c then .disableReceiveInterrupt :: s.trace else s.trace } := by
  split <;> simp_all [State.disableRx]

theorem fcRxiState_rxie : (fcRxiState s).rxie = (s.rxie && !isFullNow s .rx) := by
  rw [fcRxiState_eq, disableRx_ite_frame]
  split
  · simp
  · split <;> simp

theorem fcRxiState_tmr :
    (fcRxiState s).tmr = if s.cap.rx.toNat / 2 ≤ usedNow s .rx then .idle
      else if usedNow s .rx = 0 then s.tmr else .armed := by
  rw [fcRxiState_eq, disableRx_ite_frame]
  split
  · rw [State.raiseWake_tmr, stopTimer_tmr]
  · split
    · rfl
    · rw [armTimer_tmr]

theorem fcRxiState_wake :
    (fcRxiState s).wake = if s.cap.rx.toNat / 2 ≤ usedNow s .rx
      then s.wake.set .rx (if s.wake.rx = .parked then .idle else .raised) else s.wake := by
  rw [fcRxiState_eq, disableRx_ite_frame]
  split
  · rw [raiseWake_wake_eq, State.stopTimer_wake]
    rfl
  · split
    · rfl
    · rw [State.armTimer_wake]

theorem fcRxiState_run :
    (fcRxiState s).run = if s.cap.rx.toNat / 2 ≤ usedNow s .rx ∧ s.wake.rx = .parked
      then s.run.set .rxt .busy else s.run := by
  rw [fcRxiState_eq, disableRx_ite_frame, ite_and]
  split
  · rw [raiseWake_run_eq, State.stopTimer_wake, State.stopTimer_run]
    rfl
  · split
    · rfl
    · rw [State.armTimer_run]

theorem fcRxiState_frame :
    fcRxiState s = { s with
      rxie := (fcRxiState s).rxie, tmr := (fcRxiState s).tmr, wake := (fcRxiState s).wake
      run := (fcRxiState s).run, trace := (fcRxiState s).trace } := by
  rw [fcRxiState_eq, disableRx_ite_frame]
  split
  · rw [raiseWake_frame, stopTimer_frame]
  · split
    · rfl
    · rw [armTimer_frame]

end

/-! ### `ERRCHK` -/

theorem devErrors_frame (s : State) :
    s.devErrors.2 = { s with
      dev := { s.dev with err := s.devErrors.2.dev.err }, freeCtr := s.devErrors.2.freeCtr
      trace := s.devErrors.2.trace } := by
  unfold State.devErrors
  split <;> rfl

/-- What `ERRCHK` leaves, the device having reported `e` in the call that led to `s`. -/
def countErrors (s : State) (e : ErrorFlags) : State :=
  { s with
    ovrCnt := s.ovrCnt + if e.overrun then 1 else 0
    frmCnt := s.frmCnt + if e.framing then 1 else 0 }

theorem errChkOp_reply (s : State) : errChkOp s = .reply (countErrors s.devErrors.2 s.devErrors.1) Reply.ok0 := by
  rw [errChkOp]
  rcases s.devErrors with ⟨⟨overrun, framing⟩, t⟩
  cases overrun <;> cases framing <;> simp [countErrors, State.countOverrun, State.countFraming]

/-! ### Storage -/

theorem policy_storage {ch : Chan} {i : Instr} {s t : State}
    (hi : i ∈ ([.snap ch, .fcTxt, .fcRxt, .fcTxi, .fcRxi, .errChk, .setup, .tarm, .tstop] : List Instr))
    (h : exec i s = .next t) : t.storage = s.storage := by
  have hreply : ∃ m, meaning i s.issuer s = .reply m Reply.ok0 ∧ m.storage = s.storage := by
    simp only [List.mem_cons, List.not_mem_nil, or_false] at hi
    rcases hi with rfl | rfl | rfl | rfl | rfl | rfl | rfl | rfl | rfl
    · exact ⟨_, rfl, by rw [latch_both]⟩
    · exact ⟨_, fcTxtOp_reply s, by rw [fcTxtState_frame]⟩
    · exact ⟨_, fcRxtOp_reply s, by rw [fcRxtState_frame]⟩
    · exact ⟨_, fcTxiOp_reply s, by rw [fcTxiState_frame]⟩
    · exact ⟨_, fcRxiOp_reply s, by rw [fcRxiState_frame]⟩
    · exact ⟨_, errChkOp_reply s, State.devErrors_storage s⟩
    · exact ⟨_, rfl, rfl⟩
    · exact ⟨_, rfl, State.armTimer_storage s⟩
    · exact ⟨_, rfl, State.stopTimer_storage s⟩
  obtain ⟨m, hreply, hstorage⟩ := hreply
  obtain ⟨u, r, rfl | rfl, rfl⟩ := exec_next_of_reply h hreply
  · rfl
  · exact hstorage

end Sys2Proof.Machine
end

section
/-! SUPPORT. R157: the flow-control operations evaluated a second time, no counter having changed between. -/

namespace Sys2Proof.Machine

/-- The tests of R151 read the same counters, latches and capacities in both states. -/
structure SameTests (s t : State) : Prop where
  cap : t.cap = s.cap
  widx : t.widx = s.widx
  ridx : t.ridx = s.ridx
  snap : t.snap = s.snap

section

variable {s t : State} (h : SameTests s t)
include h

theorem SameTests.respond (a : Agent) (r : Reply) : SameTests s (t.respond a r) := ⟨h.cap, h.widx, h.ridx, h.snap⟩

theorem SameTests.isEmptyNow (ch : Chan) : isEmptyNow t ch = isEmptyNow s ch := by
  rw [Machine.isEmptyNow, h.widx, h.ridx, Machine.isEmptyNow]

theorem SameTests.isFullNow (ch : Chan) : isFullNow t ch = isFullNow s ch := by
  rw [Machine.isFullNow, h.widx, h.ridx, h.cap, Machine.isFullNow]

theorem SameTests.usedNow (ch : Chan) : usedNow t ch = usedNow s ch := by
  rw [Machine.usedNow, h.widx, h.ridx, Machine.usedNow]

theorem SameTests.fcTxtDecides : fcTxtDecides t t.widx.tx t.ridx.tx = fcTxtDecides s s.widx.tx s.ridx.tx := by
  rw [Machine.fcTxtDecides, h.widx, h.ridx, h.snap, Machine.fcTxtDecides]

theorem SameTests.fcRxtDecides : fcRxtDecides t t.widx.rx t.ridx.rx = fcRxtDecides s s.widx.rx s.ridx.rx := by
  rw [Machine.fcRxtDecides, h.widx, h.ridx, h.snap, h.cap, Machine.fcRxtDecides]

end

theorem fcTxtState_sameTests (s : State) : SameTests s (fcTxtState s) := by
  rw [fcTxtState_frame]
  exact ⟨rfl, rfl, rfl, rfl⟩

theorem fcRxtState_sameTests (s : State) : SameTests s (fcRxtState s) := by
  rw [fcRxtState_frame]
  exact ⟨rfl, rfl, rfl, rfl⟩

theorem fcTxiState_sameTests (s : State) : SameTests s (fcTxiState s) := by
  rw [fcTxiState_frame]
  exact ⟨rfl, rfl, rfl, rfl⟩

theorem fcRxiState_sameTests (s : State) : SameTests s (fcRxiState s) := by
  rw [fcRxiState_frame]
  exact ⟨rfl, rfl, rfl, rfl⟩

/-! ### The second evaluation runs -/

theorem ready_of_same {i : Instr} {s t : State} (hready : ready i s) (hissuer : t.issuer = s.issuer)
    (hrun : t.run.get s.issuer = s.run.get s.issuer) (hcap : t.cap = s.cap) : ready i t := by
  obtain ⟨hacc, hidle, hneeds⟩ := hready
  refine ⟨by rw [hissuer, hacc], by rw [hissuer, hrun, hidle], ?_⟩
  rw [needsConstruct, hcap]
  exact hneeds

/-- An operation that always answers and leaves its agent IDLE runs again from the state it leaves. -/
theorem exec_twice {i : Instr} {F : State → State} {s : State}
    (hop : ∀ s, meaning i s.issuer s = .reply (F s) Reply.ok0) (hready : ready i s)
    (hissuer : (F s).issuer = s.issuer) (hrun : (F s).run.get s.issuer = s.run.get s.issuer)
    (hsame : SameTests s (F s)) :
    exec i s = .next ((F s).respond s.issuer Reply.ok0) ∧
      exec i ((F s).respond s.issuer Reply.ok0) =
        .next ((F ((F s).respond s.issuer Reply.ok0)).respond s.issuer Reply.ok0) := by
  have hagain : ready i ((F s).respond s.issuer Reply.ok0) := ready_of_same hready hissuer hrun hsame.cap
  refine ⟨exec_of_reply hready (hop s), (exec_of_reply hagain (hop _)).trans ?_⟩
  rw [State.respond_issuer, hissuer]

/-- Two evaluations whose second leaves the enables as they were are one decision: no latch and no counter moved. -/
theorem decides_twice {i : Instr} {F : State → State} {s t u : State} (hsame : ∀ s, SameTests s (F s))
    (ht : t = (F s).respond s.issuer Reply.ok0) (hu : u = (F t).respond s.issuer Reply.ok0)
    (hexec : exec i s = .next t ∧ exec i t = .next u) (htxie : (F t).txie = t.txie) (hrxie : (F t).rxie = t.rxie) :
    ∃ t u, exec i s = .next t ∧ exec i t = .next u ∧ u.txie = t.txie ∧ u.rxie = t.rxie ∧ t.snap = s.snap ∧
      u.snap = s.snap ∧ t.widx = s.widx ∧ t.ridx = s.ridx := by
  have hfirst : SameTests s t := ht ▸ (hsame s).respond _ _
  have hsecond : SameTests t u := hu ▸ (hsame t).respond _ _
  refine ⟨t, u, hexec.1, hexec.2, ?_, ?_, hfirst.snap, hsecond.snap.trans hfirst.snap, hfirst.widx, hfirst.ridx⟩
  · rw [hu, State.respond_txie, htxie]
  · rw [hu, State.respond_rxie, hrxie]

/-- The interrupt side makes only a thread runnable, so the handler stays as it was. -/
theorem fcTxiState_run_isr (s : State) : (fcTxiState s).run.get .isr = s.run.get .isr := by
  rw [fcTxiState_run]
  split <;> rfl

theorem fcRxiState_run_isr (s : State) : (fcRxiState s).run.get .isr = s.run.get .isr := by
  rw [fcRxiState_run]
  split <;> rfl

theorem exec_fcTxt_twice {s : State} (hready : ready .fcTxt s) :
    exec .fcTxt s = .next ((fcTxtState s).respond s.issuer Reply.ok0) ∧
      exec .fcTxt ((fcTxtState s).respond s.issuer Reply.ok0) =
        .next ((fcTxtState ((fcTxtState s).respond s.issuer Reply.ok0)).respond s.issuer Reply.ok0) :=
  exec_twice fcTxtOp_reply hready (by rw [fcTxtState_frame]) (by rw [fcTxtState_frame]) (fcTxtState_sameTests s)

theorem exec_fcRxt_twice {s : State} (hready : ready .fcRxt s) :
    exec .fcRxt s = .next ((fcRxtState s).respond s.issuer Reply.ok0) ∧
      exec .fcRxt ((fcRxtState s).respond s.issuer Reply.ok0) =
        .next ((fcRxtState ((fcRxtState s).respond s.issuer Reply.ok0)).respond s.issuer Reply.ok0) :=
  exec_twice fcRxtOp_reply hready (by rw [fcRxtState_frame]) (by rw [fcRxtState_frame]) (fcRxtState_sameTests s)

theorem exec_fcTxi_twice {s : State} (hready : ready .fcTxi s) :
    exec .fcTxi s = .next ((fcTxiState s).respond s.issuer Reply.ok0) ∧
      exec .fcTxi ((fcTxiState s).respond s.issuer Reply.ok0) =
        .next ((fcTxiState ((fcTxiState s).respond s.issuer Reply.ok0)).respond s.issuer Reply.ok0) := by
  have hissuer : s.issuer = .isr := beq_iff_eq.1 hready.1
  exact exec_twice fcTxiOp_reply hready (by rw [fcTxiState_frame]) (by rw [hissuer, fcTxiState_run_isr])
    (fcTxiState_sameTests s)

theorem exec_fcRxi_twice {s : State} (hready : ready .fcRxi s) :
    exec .fcRxi s = .next ((fcRxiState s).respond s.issuer Reply.ok0) ∧
      exec .fcRxi ((fcRxiState s).respond s.issuer Reply.ok0) =
        .next ((fcRxiState ((fcRxiState s).respond s.issuer Reply.ok0)).respond s.issuer Reply.ok0) := by
  have hissuer : s.issuer = .isr := beq_iff_eq.1 hready.1
  exact exec_twice fcRxiOp_reply hready (by rw [fcRxiState_frame]) (by rw [hissuer, fcRxiState_run_isr])
    (fcRxiState_sameTests s)

/-! ### The second evaluation decides the same -/

section

variable {s t : State}

theorem fcTxtState_txie (s : State) :
    (fcTxtState s).txie = (fcTxtDecides s s.widx.tx s.ridx.tx || s.txie) := by
  have hdecides : fcTxtState s = if fcTxtDecides s s.widx.tx s.ridx.tx then s.enableTx else s := rfl
  rw [hdecides]
  cases fcTxtDecides s s.widx.tx s.ridx.tx <;> rfl

theorem fcRxtState_rxie (s : State) :
    (fcRxtState s).rxie = (fcRxtDecides s s.widx.rx s.ridx.rx || s.rxie) := by
  have hdecides : fcRxtState s = if fcRxtDecides s s.widx.rx s.ridx.rx then s.enableRx else s := rfl
  rw [hdecides]
  cases fcRxtDecides s s.widx.rx s.ridx.rx <;> rfl

theorem fcTxtState_rxie (s : State) : (fcTxtState s).rxie = s.rxie := by rw [fcTxtState_frame]

theorem fcRxtState_txie (s : State) : (fcRxtState s).txie = s.txie := by rw [fcRxtState_frame]

theorem fcTxiState_rxie (s : State) : (fcTxiState s).rxie = s.rxie := by rw [fcTxiState_frame]

theorem fcRxiState_txie (s : State) : (fcRxiState s).txie = s.txie := by rw [fcRxiState_frame]

theorem fcTxtState_txie_again (hsame : SameTests s t) (htxie : t.txie = (fcTxtState s).txie) :
    (fcTxtState t).txie = t.txie := by
  rw [fcTxtState_txie, hsame.fcTxtDecides, htxie, fcTxtState_txie, ← Bool.or_assoc, Bool.or_self]

theorem fcRxtState_rxie_again (hsame : SameTests s t) (hrxie : t.rxie = (fcRxtState s).rxie) :
    (fcRxtState t).rxie = t.rxie := by
  rw [fcRxtState_rxie, hsame.fcRxtDecides, hrxie, fcRxtState_rxie, ← Bool.or_assoc, Bool.or_self]

theorem fcTxiState_txie_again (hsame : SameTests s t) (htxie : t.txie = (fcTxiState s).txie) :
    (fcTxiState t).txie = t.txie := by
  rw [fcTxiState_txie, hsame.isEmptyNow, htxie, fcTxiState_txie, Bool.and_assoc, Bool.and_self]

theorem fcRxiState_rxie_again (hsame : SameTests s t) (hrxie : t.rxie = (fcRxiState s).rxie) :
    (fcRxiState t).rxie = t.rxie := by
  rw [fcRxiState_rxie, hsame.isFullNow, hrxie, fcRxiState_rxie, Bool.and_assoc, Bool.and_self]

theorem fcRxiState_tmr_again (hsame : SameTests s t) (htmr : t.tmr = (fcRxiState s).tmr) :
    (fcRxiState t).tmr = t.tmr := by
  rw [fcRxiState_tmr, hsame.cap, hsame.usedNow, htmr, fcRxiState_tmr]
  split
  · rfl
  · split <;> rfl

/-- A second raise leaves the signal raised; only a waiter's taking it lets the second be seen. -/
theorem fcRxiState_wake_again (hsame : SameTests s t) (hwake : t.wake = (fcRxiState s).wake)
    (hparked : s.wake.rx ≠ .parked) : (fcRxiState t).wake = t.wake := by
  rw [fcRxiState_wake, hsame.cap, hsame.usedNow, hwake, fcRxiState_wake, if_neg hparked]
  split <;> rfl

end

end Sys2Proof.Machine
end

section
/-! SUPPORT. The bursts of the handler with a device whose answers are listed (42_interrupt_handler.md R182, R183):
what each moves, and what it leaves as it was. -/

namespace Sys2Proof.Machine

theorem add_ofNat_succ (v : Index) (n : Nat) : v + BitVec.ofNat 16 (n + 1) = inc16 v + BitVec.ofNat 16 n := by
  rw [inc16, BitVec.ofNat_add, BitVec.add_comm (BitVec.ofNat 16 n), ← BitVec.add_assoc]
  rfl

/-- The store and the publication of `PUSH` append its byte. -/
theorem ringContent_pushed {s : State} {ch : Chan} (hlegal : capLegal (s.cap.get ch) = true)
    (hroom : isFullNow s ch = false) (b : Byte) :
    ringContent ((s.memWrite ch (slotOf (s.widx.get ch) (s.cap.get ch)) b).setWidx ch (inc16 (s.widx.get ch))) ch =
      ringContent s ch ++ [b] :=
  (ringContent_publish (s := s.memWrite ch _ b) hroom).trans
    (congrArg₂ (· ++ [·]) (ringContent_store hlegal hroom b ch) (memRead_memWrite_same ..))

/-! ### The receive loop -/

/-- The receive loop took `s` to `t` with room for `room` bytes, the device having the bytes `xs`, then none. -/
structure Received (xs : List Byte) (rest : List (Option Byte)) (room : Nat) (s t : State) : Prop where
  frame : t = { s with
    storage := t.storage, widx := t.widx, dev := { s.dev with rx := t.dev.rx }, trace := t.trace }
  storage_tx : t.storage.tx = s.storage.tx
  widx_tx : t.widx.tx = s.widx.tx
  widx_rx : t.widx.rx = s.widx.rx + BitVec.ofNat 16 (min xs.length room)
  content : ringContent t .rx = ringContent s .rx ++ xs.take (min xs.length room)
  dev_rx : t.dev.rx = if xs.length < room then rest else s.dev.rx.drop (min xs.length room)
  sent : sentBytes t.trace = sentBytes s.trace

/-- No byte is moved: the loop ends at once. -/
theorem Received.none_moved {xs : List Byte} {rest : List (Option Byte)} (s : State) :
    Received xs rest 0 s s := by
  refine ⟨rfl, rfl, rfl, ?_, ?_, ?_, rfl⟩
  · rw [Nat.min_zero]
    exact (BitVec.add_zero _).symm
  · rw [Nat.min_zero, List.take_zero, List.append_nil]
  · rw [if_neg (Nat.not_lt_zero _), Nat.min_zero, List.drop_zero]

/-- The device has nothing more: the read that says so is the loop's last event. -/
theorem Received.dry {rest : List (Option Byte)} {room : Nat} (s : State) (hroom : 0 < room) :
    Received [] rest room s
      { s with dev := { s.dev with rx := rest }, trace := .readByteNonBlocking none :: s.trace } := by
  refine ⟨rfl, rfl, rfl, ?_, ?_, ?_, rfl⟩
  · rw [List.length_nil, Nat.zero_min]
    exact (BitVec.add_zero _).symm
  · exact (List.append_nil _).symm
  · exact (if_pos hroom).symm

/-- The device read of one byte (`RXBURST.2`), `rx` what the device has left. -/
def readByte (s : State) (x : Byte) (rx : List (Option Byte)) : State :=
  { s with dev := { s.dev with rx := rx }, trace := .readByteNonBlocking (some x) :: s.trace }

/-- What the receive loop does with one byte: the device read, then the store and the publication of `PUSH`. -/
def receiveByte (s : State) (x : Byte) (rx : List (Option Byte)) : State :=
  ((readByte s x rx).memWrite .rx (slotOf (s.widx.get .rx) (s.cap.get .rx)) x).setWidx .rx (inc16 (s.widx.get .rx))

theorem receiveByte_content {s : State} (hlegal : capLegal (s.cap.get .rx) = true)
    (hroom : isFullNow s .rx = false) (x : Byte) (rx : List (Option Byte)) :
    ringContent (receiveByte s x rx) .rx = ringContent s .rx ++ [x] :=
  ringContent_pushed (s := readByte s x rx) hlegal hroom x

theorem Received.cons {x : Byte} {xs : List Byte} {rest : List (Option Byte)} {room : Nat} {s t : State}
    (hlegal : capLegal (s.cap.get .rx) = true) (hroom : isFullNow s .rx = false)
    {rx : List (Option Byte)} (hrx : s.dev.rx = some x :: rx) (h : Received xs rest room (receiveByte s x rx) t) :
    Received (x :: xs) rest (room + 1) s t := by
  have hmin : min (x :: xs).length (room + 1) = min xs.length room + 1 := Nat.succ_min_succ ..
  refine ⟨h.frame, h.storage_tx, h.widx_tx, ?_, ?_, ?_, h.sent⟩
  · rw [hmin, add_ofNat_succ]
    exact h.widx_rx
  · rw [hmin, List.take_succ_cons, h.content, receiveByte_content hlegal hroom, List.append_assoc,
      List.singleton_append]
  · rw [hmin, hrx, List.drop_succ_cons, h.dev_rx]
    exact if_congr Nat.succ_lt_succ_iff.symm rfl rfl

/-- The fuel of the loop is the room: it ends at a device with nothing more or at a full ring. -/
theorem rxBurstLoop_received (a : Agent) {rest : List (Option Byte)} (room : Nat) (xs : List Byte) (s : State)
    (hroom : roomOf s .rx = room) (hlegal : capLegal (s.cap.get .rx) = true)
    (hrx : s.dev.rx = xs.map some ++ none :: rest) :
    ∃ t, rxBurstLoop a room s = .reply t Reply.ok0 ∧ Received xs rest room s t := by
  induction room generalizing xs s with
  | zero => exact ⟨s, rfl, .none_moved s⟩
  | succ room ih =>
    have hnotfull : isFullNow s .rx = false := by
      rw [← Bool.not_eq_true, isFullNow_iff_roomOf, hroom]
      exact Nat.succ_ne_zero room
    have hanswer : (queryReply .full (s.widx.get .rx) (s.ridx.get .rx) (s.cap.get .rx)).value ≠ 1 := by
      rw [ne_eq, queryReply_full_value]
      exact Bool.eq_false_iff.1 hnotfull
    rw [rxBurstLoop, queryOp, andThen_reply, if_neg hanswer]
    cases xs with
    | nil =>
      rw [devRead_cons s none rest hrx]
      exact ⟨_, rfl, .dry s (Nat.succ_pos room)⟩
    | cons x xs =>
      have hpush := pushOp_of_room .rx x a (readByte s x (xs.map some ++ none :: rest)) hnotfull
      obtain ⟨t, hloop, ht⟩ := ih xs (receiveByte s x (xs.map some ++ none :: rest))
        (Nat.succ.inj ((roomOf_publish (ch := .rx) hnotfull).trans hroom)) hlegal rfl
      rw [devRead_cons s (some x) (xs.map some ++ none :: rest) hrx]
      exact ⟨t, (congrArg (Result.andThen · _) hpush).trans hloop, ht.cons hlegal hnotfull hrx⟩

/-! ### The transmit loop -/

/-- The transmit loop took `s` to `t` with `data` bytes in the ring, the device accepting `k` writes, then
refusing one. -/
structure Transmitted (k : Nat) (ws : List Bool) (data : Nat) (s t : State) : Prop where
  frame : t = { s with ridx := t.ridx, dev := { s.dev with tx := t.dev.tx }, trace := t.trace }
  ridx_rx : t.ridx.rx = s.ridx.rx
  ridx_tx : t.ridx.tx = s.ridx.tx + BitVec.ofNat 16 (min k data)
  content : ringContent t .tx = (ringContent s .tx).drop (min k data)
  dev_tx : t.dev.tx = if k < data then ws else s.dev.tx.drop (min k data)
  sent : sentBytes t.trace = sentBytes s.trace ++ (ringContent s .tx).take (min k data)

theorem Transmitted.none_moved {k : Nat} {ws : List Bool} (s : State) : Transmitted k ws 0 s s := by
  refine ⟨rfl, rfl, ?_, ?_, ?_, ?_⟩
  · rw [Nat.min_zero]
    exact (BitVec.add_zero _).symm
  · rw [Nat.min_zero, List.drop_zero]
  · rw [if_neg (Nat.not_lt_zero _), Nat.min_zero, List.drop_zero]
  · rw [Nat.min_zero, List.take_zero, List.append_nil]

/-- The device write of the byte `b` (`TXBURST.3`), `tx` the answers the device has left. -/
def writeByte (s : State) (b : Byte) (ok : Bool) (tx : List Bool) : State :=
  { s with dev := { s.dev with tx := tx }, trace := .writeByteNonBlocking b ok :: s.trace }

/-- A refused byte stays in the ring. -/
theorem Transmitted.refused {ws : List Bool} {data : Nat} (s : State) (b : Byte) (hdata : 0 < data) :
    Transmitted 0 ws data s (writeByte s b false ws) := by
  refine ⟨rfl, rfl, ?_, ?_, ?_, ?_⟩
  · rw [Nat.zero_min]
    exact (BitVec.add_zero _).symm
  · rw [Nat.zero_min, List.drop_zero]
    rfl
  · exact (if_pos hdata).symm
  · rw [Nat.zero_min, List.take_zero, List.append_nil]
    rfl

/-- The oldest byte of the TX ring. -/
def oldestTx (s : State) : Byte := s.memRead .tx (slotOf (s.ridx.get .tx) (s.cap.get .tx))

/-- What the transmit loop does with one accepted byte: the device write, then `POP`. -/
def transmitByte (s : State) (tx : List Bool) : State :=
  (writeByte s (oldestTx s) true tx).setRidx .tx (inc16 (s.ridx.get .tx))

theorem transmitByte_content {s : State} (hdata : isEmptyNow s .tx = false) (tx : List Bool) :
    ringContent s .tx = oldestTx s :: ringContent (transmitByte s tx) .tx :=
  ringContent_consume hdata

theorem Transmitted.accepted {k : Nat} {ws tx : List Bool} {data : Nat} {s t : State}
    (hdata : isEmptyNow s .tx = false) (htx : s.dev.tx = true :: tx)
    (h : Transmitted k ws data (transmitByte s tx) t) : Transmitted (k + 1) ws (data + 1) s t := by
  have hmin : min (k + 1) (data + 1) = min k data + 1 := Nat.succ_min_succ ..
  have hcontent := transmitByte_content hdata tx
  refine ⟨h.frame, h.ridx_rx, ?_, ?_, ?_, ?_⟩
  · rw [hmin, add_ofNat_succ]
    exact h.ridx_tx
  · rw [hmin, hcontent, List.drop_succ_cons, h.content]
  · rw [hmin, htx, List.drop_succ_cons, h.dev_tx]
    exact if_congr Nat.succ_lt_succ_iff.symm rfl rfl
  · have hsent : sentBytes (transmitByte s tx).trace = sentBytes s.trace ++ [oldestTx s] := rfl
    rw [hmin, hcontent, List.take_succ_cons, h.sent, hsent, List.append_assoc, List.singleton_append]

/-- The fuel of the loop is the level: it ends at a refusal or at an empty ring. -/
theorem txBurstLoop_transmitted (a : Agent) {ws : List Bool} (data k : Nat) (s : State)
    (hused : usedNow s .tx = data) (htx : s.dev.tx = List.replicate k true ++ false :: ws) :
    ∃ t, txBurstLoop a data s = .reply t Reply.ok0 ∧ Transmitted k ws data s t := by
  induction data generalizing k s with
  | zero => exact ⟨s, rfl, .none_moved s⟩
  | succ data ih =>
    have hdata : isEmptyNow s .tx = false := by
      rw [isEmptyNow_false_iff, hused]
      exact Nat.succ_pos data
    have hanswer : (queryReply .empty (s.widx.get .tx) (s.ridx.get .tx) (s.cap.get .tx)).value ≠ 1 := by
      rw [ne_eq, queryReply_empty_value]
      exact Bool.eq_false_iff.1 hdata
    have hbyte : (Reply.okVal ((oldestTx s).setWidth 16)).value.setWidth 8 = oldestTx s := by
      simp [Reply.okVal]
    rw [txBurstLoop, queryOp, andThen_reply, if_neg hanswer, peekOp_of_data .tx a s hdata, andThen_reply]
    rw [← oldestTx, hbyte]
    cases k with
    | zero =>
      rw [devWrite_cons s _ false ws htx]
      exact ⟨_, rfl, .refused s _ (Nat.succ_pos data)⟩
    | succ k =>
      have hpop := popOp_of_data .tx a (writeByte s (oldestTx s) true (List.replicate k true ++ false :: ws)) hdata
      obtain ⟨t, hloop, ht⟩ := ih k (transmitByte s (List.replicate k true ++ false :: ws))
        ((RingOk.usedNow_consume (ch := .tx) hdata).trans (congrArg (· - 1) hused)) rfl
      rw [devWrite_cons s _ true (List.replicate k true ++ false :: ws) htx]
      exact ⟨t, (congrArg (Result.andThen · _) hpop).trans hloop, ht.accepted hdata htx⟩

end Sys2Proof.Machine
end

section
/-! SUPPORT. One pending iteration of the handler (42_interrupt_handler.md R180): the receive half and the transmit
half, each run or left out, and the composition. -/

namespace Sys2Proof.Machine

/-! ### The policies send nothing -/

theorem stopTimer_sent (s : State) : sentBytes s.stopTimer.trace = sentBytes s.trace := by
  rcases stopTimer_cases s with ⟨-, h⟩ | ⟨-, h⟩ <;> rw [h]
  rfl

theorem armTimer_sent (s : State) : sentBytes s.armTimer.trace = sentBytes s.trace := by
  rcases armTimer_cases s with ⟨-, h⟩ | ⟨-, h⟩ <;> rw [h]
  rfl

theorem fcRxiState_sent (s : State) : sentBytes (fcRxiState s).trace = sentBytes s.trace := by
  have hdisable : sentBytes (if isFullNow s .rx then s.disableRx else s).trace = sentBytes s.trace := by
    split <;> rfl
  rw [fcRxiState_eq]
  split
  · rw [State.raiseWake_trace, stopTimer_sent, hdisable]
  · split
    · exact hdisable
    · rw [armTimer_sent, hdisable]

theorem fcTxiState_sent (s : State) : sentBytes (fcTxiState s).trace = sentBytes s.trace := by
  rw [fcTxiState_trace]
  split <;> rfl

/-! ### The receive half -/

/-- How many bytes the receive half moves. -/
def receivedCount (rr : Bool) (xs : List Byte) (s : State) : Nat := if rr then min xs.length (roomNow s .rx) else 0

/-- The receive half took `s` to `v`, `rr` the ready answer, the device having the bytes `xs`, then none. -/
structure ReceiveServed (rr : Bool) (xs : List Byte) (rest : List (Option Byte)) (s v : State) : Prop where
  frame : v = { s with
    storage := v.storage, widx := v.widx, wake := v.wake, tmr := v.tmr, rxie := v.rxie, run := v.run
    dev := { s.dev with rx := v.dev.rx }, trace := v.trace }
  storage_tx : v.storage.tx = s.storage.tx
  widx_tx : v.widx.tx = s.widx.tx
  wake_tx : v.wake.tx = s.wake.tx
  run_isr : v.run.get .isr = s.run.get .isr
  widx_rx : v.widx.rx = s.widx.rx + BitVec.ofNat 16 (receivedCount rr xs s)
  content : ringContent v .rx = ringContent s .rx ++ xs.take (receivedCount rr xs s)
  sent : sentBytes v.trace = sentBytes s.trace
  dev_rx : v.dev.rx =
    if rr ∧ xs.length < roomNow s .rx then rest else s.dev.rx.drop (receivedCount rr xs s)
  rxie : v.rxie =
    if rr then s.rxie && decide (usedNow s .rx + receivedCount rr xs s < s.cap.rx.toNat) else s.rxie
  tmr : v.tmr =
    if rr then
      if s.cap.rx.toNat / 2 ≤ usedNow s .rx + receivedCount rr xs s then .idle
      else if usedNow s .rx + receivedCount rr xs s = 0 then s.tmr else .armed
    else s.tmr
  wake_rx : v.wake.rx =
    if rr ∧ s.cap.rx.toNat / 2 ≤ usedNow s .rx + receivedCount rr xs s
      then if s.wake.rx = .parked then .idle else .raised
      else s.wake.rx
  storage : rr = false → v.storage = s.storage

theorem ReceiveServed.not_ready (xs : List Byte) (rest : List (Option Byte)) (s : State) :
    ReceiveServed false xs rest s s where
  frame := rfl
  storage_tx := rfl
  widx_tx := rfl
  wake_tx := rfl
  run_isr := rfl
  widx_rx := (BitVec.add_zero _).symm
  content := (List.append_nil _).symm
  sent := rfl
  dev_rx := (if_neg fun h => Bool.false_ne_true h.1).symm
  rxie := rfl
  tmr := rfl
  wake_rx := (if_neg fun h => Bool.false_ne_true h.1).symm
  storage := fun _ => rfl

section

variable {xs : List Byte} {rest : List (Option Byte)} {s t : State}

/-- The level after the loop: no more than `room` bytes were moved. -/
theorem Received.level (h : Received xs rest (roomNow s .rx) s t) :
    usedNow t .rx = usedNow s .rx + receivedCount true xs s := by
  have hcount : receivedCount true xs s ≤ xs.length := Nat.min_le_left ..
  rw [← ringContent_length t .rx, h.content, List.length_append, ringContent_length]
  exact congrArg _ (List.length_take_of_le hcount)

/-- The loop, then the receive policy on the level it leaves. -/
theorem Received.served (h : Received xs rest (roomNow s .rx) s t) :
    ReceiveServed true xs rest s (fcRxiState t) := by
  have hcap : t.cap = s.cap := by rw [h.frame]
  have hwake : t.wake = s.wake := by rw [h.frame]
  have hrun : t.run = s.run := by rw [h.frame]
  have htmr : t.tmr = s.tmr := by rw [h.frame]
  have hrxie : t.rxie = s.rxie := by rw [h.frame]
  have hstorage : (fcRxiState t).storage = t.storage := by rw [fcRxiState_frame]
  have hwidx : (fcRxiState t).widx = t.widx := by rw [fcRxiState_frame]
  have hdev : (fcRxiState t).dev = t.dev := by rw [fcRxiState_frame]
  have hroom : isFullNow t .rx = false ↔ usedNow t .rx < t.cap.rx.toNat := isFullNow_false_iff t .rx
  have hnotfull : (!isFullNow t .rx) = decide (usedNow t .rx < t.cap.rx.toNat) := by
    rw [← Bool.decide_congr hroom, Bool.decide_eq_false]
  refine
    { frame := ?_, storage_tx := ?_, widx_tx := ?_, wake_tx := ?_, run_isr := ?_, widx_rx := ?_, content := ?_
      sent := (fcRxiState_sent t).trans h.sent, dev_rx := ?_, rxie := ?_, tmr := ?_, wake_rx := ?_
      storage := fun hr => nomatch hr }
  · rw [hstorage, hwidx, hdev]
    refine (fcRxiState_frame t).trans ?_
    rw [h.frame]
  · rw [hstorage, h.storage_tx]
  · rw [hwidx, h.widx_tx]
  · rw [fcRxiState_wake, hwake]
    split <;> rfl
  · rw [fcRxiState_run_isr, hrun]
  · rw [hwidx]
    exact h.widx_rx
  · refine Eq.trans ?_ h.content
    rw [fcRxiState_frame]
    rfl
  · rw [hdev, h.dev_rx]
    exact if_congr (and_iff_right rfl).symm rfl rfl
  · rw [fcRxiState_rxie, hnotfull, h.level, hcap, hrxie, if_pos rfl]
  · rw [fcRxiState_tmr, h.level, hcap, htmr, if_pos rfl]
  · rw [fcRxiState_wake, h.level, hcap, hwake]
    exact (apply_ite PerChan.rx ..).trans (if_congr (and_iff_right rfl).symm rfl rfl)

end

/-- `ISR.3` (R180). -/
theorem serveReceive (a : Agent) (rr : Bool) {xs : List Byte} {rest : List (Option Byte)} {s : State}
    (hlegal : capLegal (s.cap.get .rx) = true) (hrx : s.dev.rx = xs.map some ++ none :: rest) :
    ∃ v, (if rr then rxBurstOp a s else .reply s Reply.ok0) = .reply v Reply.ok0 ∧
      ReceiveServed rr xs rest s v := by
  cases rr with
  | false => exact ⟨s, rfl, .not_ready xs rest s⟩
  | true =>
    obtain ⟨t, hloop, ht⟩ := rxBurstLoop_received a (roomNow s .rx) xs s rfl hlegal hrx
    refine ⟨fcRxiState t, ?_, ht.served⟩
    exact congrArg (fun x => x.andThen fun s _ => (fcRxiOp s).andThen fun s _ => .reply s Reply.ok0) hloop

/-! ### The transmit half -/

/-- How many bytes the transmit half moves. -/
def transmittedCount (tr : Bool) (k : Nat) (s : State) : Nat := if tr then min k (usedNow s .tx) else 0

/-- The transmit half took `s` to `v`, `tr` the ready answer, the device accepting `k` writes, then refusing one. -/
structure TransmitServed (tr : Bool) (k : Nat) (ws : List Bool) (s v : State) : Prop where
  frame : v = { s with
    ridx := v.ridx, wake := v.wake, txie := v.txie, run := v.run
    dev := { s.dev with tx := v.dev.tx }, trace := v.trace }
  ridx_rx : v.ridx.rx = s.ridx.rx
  wake_rx : v.wake.rx = s.wake.rx
  run_isr : v.run.get .isr = s.run.get .isr
  ridx_tx : v.ridx.tx = s.ridx.tx + BitVec.ofNat 16 (transmittedCount tr k s)
  content : ringContent v .tx = (ringContent s .tx).drop (transmittedCount tr k s)
  sent : sentBytes v.trace = sentBytes s.trace ++ (ringContent s .tx).take (transmittedCount tr k s)
  dev_tx : v.dev.tx = if tr ∧ k < usedNow s .tx then ws else s.dev.tx.drop (transmittedCount tr k s)
  txie : v.txie = if tr then s.txie && decide (usedNow s .tx ≠ transmittedCount tr k s) else s.txie
  wake_tx : v.wake.tx =
    if tr ∧ usedNow s .tx - transmittedCount tr k s ≤ s.cap.tx.toNat / 2
      then if s.wake.tx = .parked then .idle else .raised
      else s.wake.tx

theorem TransmitServed.not_ready (k : Nat) (ws : List Bool) (s : State) : TransmitServed false k ws s s where
  frame := rfl
  ridx_rx := rfl
  wake_rx := rfl
  run_isr := rfl
  ridx_tx := (BitVec.add_zero _).symm
  content := rfl
  sent := (List.append_nil _).symm
  dev_tx := (if_neg fun h => Bool.false_ne_true h.1).symm
  txie := rfl
  wake_tx := (if_neg fun h => Bool.false_ne_true h.1).symm

section

variable {k : Nat} {ws : List Bool} {s t : State} (h : Transmitted k ws (usedNow s .tx) s t)
include h

theorem Transmitted.level : usedNow t .tx = usedNow s .tx - transmittedCount true k s := by
  rw [← ringContent_length t .tx, h.content, List.length_drop, ringContent_length]
  rfl

theorem Transmitted.notEmpty :
    (!isEmptyNow t .tx) = decide (usedNow s .tx ≠ transmittedCount true k s) := by
  have hcount : transmittedCount true k s ≤ usedNow s .tx := Nat.min_le_right ..
  have hempty : isEmptyNow t .tx = true ↔ usedNow s .tx = transmittedCount true k s := by
    rw [isEmptyNow_iff, h.level]
    omega
  rw [decide_not, ← Bool.decide_congr hempty, Bool.decide_eq_true]

/-- The loop, then the transmit policy on the level it leaves. -/
theorem Transmitted.served : TransmitServed true k ws s (fcTxiState t) := by
  have hcap : t.cap = s.cap := by rw [h.frame]
  have hwake : t.wake = s.wake := by rw [h.frame]
  have hrun : t.run = s.run := by rw [h.frame]
  have htxie : t.txie = s.txie := by rw [h.frame]
  have hridx : (fcTxiState t).ridx = t.ridx := by rw [fcTxiState_frame]
  have hdev : (fcTxiState t).dev = t.dev := by rw [fcTxiState_frame]
  refine
    { frame := ?_, ridx_rx := ?_, wake_rx := ?_, run_isr := ?_, ridx_tx := ?_, content := ?_
      sent := (fcTxiState_sent t).trans h.sent, dev_tx := ?_, txie := ?_, wake_tx := ?_ }
  · rw [hridx, hdev]
    refine (fcTxiState_frame t).trans ?_
    rw [h.frame]
  · rw [hridx, h.ridx_rx]
  · rw [fcTxiState_wake, hwake]
    split <;> rfl
  · rw [fcTxiState_run_isr, hrun]
  · rw [hridx]
    exact h.ridx_tx
  · refine Eq.trans ?_ h.content
    rw [fcTxiState_frame]
    rfl
  · rw [hdev, h.dev_tx]
    exact if_congr (and_iff_right rfl).symm rfl rfl
  · rw [fcTxiState_txie, h.notEmpty, htxie, if_pos rfl]
  · rw [fcTxiState_wake, h.level, hcap, hwake]
    exact (apply_ite PerChan.tx ..).trans (if_congr (and_iff_right rfl).symm rfl rfl)

end

/-- `ISR.4` (R180). -/
theorem serveTransmit (a : Agent) (tr : Bool) {k : Nat} {ws : List Bool} {s : State}
    (htx : s.dev.tx = List.replicate k true ++ false :: ws) :
    ∃ v, (if tr then txBurstOp a s else .reply s Reply.ok0) = .reply v Reply.ok0 ∧
      TransmitServed tr k ws s v := by
  cases tr with
  | false => exact ⟨s, rfl, .not_ready k ws s⟩
  | true =>
    obtain ⟨t, hloop, ht⟩ := txBurstLoop_transmitted a (usedNow s .tx) k s rfl htx
    refine ⟨fcTxiState t, ?_, ht.served⟩
    exact congrArg (fun x => x.andThen fun s _ => (fcTxiOp s).andThen fun s _ => .reply s Reply.ok0) hloop

/-! ### The iteration -/

/-- The state in which the receive half begins: polled, the errors counted, asked whether it is ready. -/
def beforeReceive (s : State) (e : ErrorFlags) (rr : Bool) (d : DeviceInput) : State :=
  { s with
    ovrCnt := s.ovrCnt + if e.overrun then 1 else 0
    frmCnt := s.frmCnt + if e.framing then 1 else 0
    dev := d
    trace := .rxReady rr :: .checkAndClearErrors e :: .pollPendingInterrupt true :: s.trace }

/-- The state in which the transmit half begins. -/
def beforeTransmit (s : State) (tr : Bool) (ts : List Bool) : State :=
  { s with dev := { s.dev with txReady := ts }, trace := .txReady tr :: s.trace }

theorem errChkOp_counted {s : State} {e : ErrorFlags} {es : List ErrorFlags} (herr : s.dev.err = e :: es) :
    errChkOp s = .reply
      (countErrors { s with dev := { s.dev with err := es }, trace := .checkAndClearErrors e :: s.trace } e)
      Reply.ok0 := by
  rw [errChkOp_reply, devErrors_cons s e es herr]

/-- One pending poll, one iteration, one poll that is not pending. -/
theorem isrOp_one_iteration (a : Agent) {s v w : State} {e : ErrorFlags} {rr tr : Bool} {ps rs ts : List Bool}
    {es : List ErrorFlags} {rx : List (Option Byte)} {tx : List Bool}
    (hdev : s.dev = ⟨true :: false :: ps, rr :: rs, tr :: ts, rx, tx, e :: es⟩)
    (hreceive : (if rr then rxBurstOp a (beforeReceive s e rr ⟨false :: ps, rs, tr :: ts, rx, tx, es⟩)
      else .reply (beforeReceive s e rr ⟨false :: ps, rs, tr :: ts, rx, tx, es⟩) Reply.ok0) = .reply v Reply.ok0)
    (hready : v.dev.txReady = tr :: ts)
    (htransmit : (if tr then txBurstOp a (beforeTransmit v tr ts) else .reply (beforeTransmit v tr ts) Reply.ok0) =
      .reply w Reply.ok0)
    (hpoll : w.dev.poll = false :: ps) :
    isrOp a s = .reply { w with
      dev := { w.dev with poll := ps }, trace := .pollPendingInterrupt false :: w.trace } Reply.ok0 := by
  have hpending : s.dev.poll = true :: false :: ps := by rw [hdev]
  have hiteration : isrIteration a { s with
      dev := { s.dev with poll := false :: ps }, trace := .pollPendingInterrupt true :: s.trace } =
      .reply w Reply.ok0 := by
    rw [isrIteration, errChkOp_counted (e := e) (es := es) (by rw [hdev]), andThen_reply,
      devRxReady_cons _ rr rs (by rw [countErrors, hdev])]
    rw [hdev]
    refine (congrArg (Result.andThen · _) hreceive).trans ?_
    rw [andThen_reply, devTxReady_cons v tr ts hready]
    exact htransmit
  rw [isrOp, hpending, List.length_cons, isrLoop, devPoll_cons s true (false :: ps) hpending]
  refine (congrArg (Result.andThen · _) hiteration).trans ?_
  rw [andThen_reply, List.length_cons, isrLoop, devPoll_cons w false ps hpoll]

/-! ### What each half leaves alone -/

section

variable {rr : Bool} {xs : List Byte} {rest : List (Option Byte)} {s v : State} (h : ReceiveServed rr xs rest s v)
include h

theorem ReceiveServed.cap : v.cap = s.cap := by rw [h.frame]
theorem ReceiveServed.ridx : v.ridx = s.ridx := by rw [h.frame]
theorem ReceiveServed.txie : v.txie = s.txie := by rw [h.frame]
theorem ReceiveServed.ovrCnt : v.ovrCnt = s.ovrCnt := by rw [h.frame]
theorem ReceiveServed.frmCnt : v.frmCnt = s.frmCnt := by rw [h.frame]
theorem ReceiveServed.responses : v.responses = s.responses := by rw [h.frame]
theorem ReceiveServed.dev : v.dev = { s.dev with rx := v.dev.rx } := by rw [h.frame]

theorem ReceiveServed.content_tx : ringContent v .tx = ringContent s .tx :=
  ringContent_congr (congrArg (PerChan.get · .tx) h.cap) h.storage_tx h.widx_tx (congrArg (PerChan.get · .tx) h.ridx)

theorem ReceiveServed.usedNow_tx : usedNow v .tx = usedNow s .tx := by
  rw [← ringContent_length, h.content_tx, ringContent_length]

end

section

variable {tr : Bool} {k : Nat} {ws : List Bool} {s v : State} (h : TransmitServed tr k ws s v)
include h

theorem TransmitServed.cap : v.cap = s.cap := by rw [h.frame]
theorem TransmitServed.storage : v.storage = s.storage := by rw [h.frame]
theorem TransmitServed.widx : v.widx = s.widx := by rw [h.frame]
theorem TransmitServed.rxie : v.rxie = s.rxie := by rw [h.frame]
theorem TransmitServed.tmr : v.tmr = s.tmr := by rw [h.frame]
theorem TransmitServed.ovrCnt : v.ovrCnt = s.ovrCnt := by rw [h.frame]
theorem TransmitServed.frmCnt : v.frmCnt = s.frmCnt := by rw [h.frame]
theorem TransmitServed.responses : v.responses = s.responses := by rw [h.frame]
theorem TransmitServed.dev : v.dev = { s.dev with tx := v.dev.tx } := by rw [h.frame]

theorem TransmitServed.content_rx : ringContent v .rx = ringContent s .rx :=
  ringContent_congr (congrArg (PerChan.get · .rx) h.cap) (congrArg (PerChan.get · .rx) h.storage)
    (congrArg (PerChan.get · .rx) h.widx) h.ridx_rx

end

end Sys2Proof.Machine
end

section
/-! PROOFS. The statements of 41_flow_control.md. -/

namespace Sys2Proof.Proofs

open Sys2Proof Sys2Proof.Machine

/-- Settles O23: the two loads of `SNAP`, one after the other, with no event between. -/
theorem snapLatchesCounters : Obligations.SnapLatchesCounters := by
  intro ch s hready
  rw [exec_of_reply hready rfl, respond_ok0, latch_both]

/-- Settles O24: the decision of each operation is the three-way test of R151. -/
theorem threadPolicyEnables : Obligations.ThreadPolicyEnables := by
  refine ⟨fun s hready => ?_, fun s hready => ?_⟩
  · rw [exec_of_reply hready (fcTxtOp_reply s), respond_ok0, fcTxtState_eq]
    split <;> rfl
  · rw [exec_of_reply hready (fcRxtOp_reply s), respond_ok0, fcRxtState_eq]
    split <;> rfl

/-- Settles O25: the two tests of `FC.TXI` are on the one level it loaded. -/
theorem transmitHandlerPolicy : Obligations.TransmitHandlerPolicy := by
  intro s hready
  have hempty : isEmptyNow s .tx = true ↔ s.widx.tx = s.ridx.tx := emptyAt_iff ..
  refine ⟨_, (exec_of_reply hready (fcTxiOp_reply s)).trans (congrArg _ (respond_ok0 ..)), ?_, ?_, ?_, ?_, ?_⟩
  · refine (fcTxiState_txie s).trans (congrArg _ ?_)
    rw [decide_not, ← Bool.decide_congr hempty, Bool.decide_eq_true]
  · exact (fcTxiState_trace s).trans (if_congr hempty rfl rfl)
  · exact fcTxiState_wake s
  · exact fcTxiState_run s
  · dsimp only
    rw [fcTxiState_frame]

/-- Settles O26: full, at or above half, below half and empty are tests on the one level `FC.RXI` loaded. -/
theorem receiveHandlerPolicy : Obligations.ReceiveHandlerPolicy := by
  intro s hready
  have hroom : isFullNow s .rx = false ↔ usedNow s .rx < s.cap.rx.toNat := isFullNow_false_iff s .rx
  refine ⟨_, (exec_of_reply hready (fcRxiOp_reply s)).trans (congrArg _ (respond_ok0 ..)), ?_, fun hhigh => ?_,
    fun hlow hdata => ?_, fun hlow hempty => ?_, ?_⟩
  · refine (fcRxiState_rxie s).trans (congrArg _ ?_)
    rw [← Bool.decide_congr hroom, Bool.decide_eq_false]
  · refine ⟨(fcRxiState_tmr s).trans (if_pos hhigh), (fcRxiState_wake s).trans (if_pos hhigh), ?_⟩
    exact (fcRxiState_run s).trans (if_congr (and_iff_right hhigh) rfl rfl)
  · have hnot := hlow.not_ge
    exact ⟨(fcRxiState_tmr s).trans ((if_neg hnot).trans (if_neg hdata.ne')), (fcRxiState_wake s).trans (if_neg hnot),
      (fcRxiState_run s).trans (if_neg fun h => hnot h.1)⟩
  · have hnot := hlow.not_ge
    exact ⟨(fcRxiState_tmr s).trans ((if_neg hnot).trans (if_pos hempty)), (fcRxiState_wake s).trans (if_neg hnot),
      (fcRxiState_run s).trans (if_neg fun h => hnot h.1)⟩
  · dsimp only
    rw [fcRxiState_frame]

/-- Settles O27: the first evaluation writes nothing the tests of the second read. -/
theorem flowReevaluationIdempotent : Obligations.FlowReevaluationIdempotent := by
  refine ⟨fun i hi s hready => ?_, fun s hready => ?_, fun s hready => ?_, fun s hready => ?_⟩
  · simp only [List.mem_cons, List.not_mem_nil, or_false] at hi
    rcases hi with rfl | rfl | rfl | rfl
    · refine decides_twice fcTxtState_sameTests rfl rfl (exec_fcTxt_twice hready) ?_ (fcTxtState_rxie _)
      exact fcTxtState_txie_again ((fcTxtState_sameTests s).respond _ _) rfl
    · refine decides_twice fcTxiState_sameTests rfl rfl (exec_fcTxi_twice hready) ?_ (fcTxiState_rxie _)
      exact fcTxiState_txie_again ((fcTxiState_sameTests s).respond _ _) rfl
    · refine decides_twice fcRxtState_sameTests rfl rfl (exec_fcRxt_twice hready) (fcRxtState_txie _) ?_
      exact fcRxtState_rxie_again ((fcRxtState_sameTests s).respond _ _) rfl
    · refine decides_twice fcRxiState_sameTests rfl rfl (exec_fcRxi_twice hready) (fcRxiState_txie _) ?_
      exact fcRxiState_rxie_again ((fcRxiState_sameTests s).respond _ _) rfl
  · exact ⟨_, (exec_fcTxt_twice hready).1, ((fcTxtState_sameTests s).respond _ _).fcTxtDecides⟩
  · exact ⟨_, (exec_fcRxt_twice hready).1, ((fcRxtState_sameTests s).respond _ _).fcRxtDecides⟩
  · obtain ⟨hfirst, hsecond⟩ := exec_fcRxi_twice hready
    have hsame := (fcRxiState_sameTests s).respond s.issuer Reply.ok0
    refine ⟨_, _, hfirst, hsecond, fcRxiState_tmr_again hsame rfl, fun hparked => ?_⟩
    exact fcRxiState_wake_again hsame rfl hparked

/-- Settles O29: the receive half leaves the TX channel to the transmit half, which leaves what the receive half did. -/
theorem handlerServesOneIteration : Obligations.HandlerServesOneIteration := by
  intro s e rr tr ps rs ts ws es xs rest k hready hrx htx hdev
  obtain ⟨v, hreceive, hv⟩ := serveReceive s.issuer rr (xs := xs) (rest := rest)
    (s := beforeReceive s e rr ⟨false :: ps, rs, tr :: ts, xs.map some ++ none :: rest,
      List.replicate k true ++ false :: ws, es⟩) (Bool.and_eq_true_iff.1 hrx).1 rfl
  have hvtx : v.dev.tx = s.dev.tx := (congrArg DeviceInput.tx hv.dev).trans (congrArg DeviceInput.tx hdev).symm
  obtain ⟨w, htransmit, hw⟩ := serveTransmit s.issuer tr (k := k) (ws := ws) (s := beforeTransmit v tr ts)
    (hvtx.trans (congrArg DeviceInput.tx hdev))
  have hwdev : w.dev = ⟨false :: ps, rs, ts, v.dev.rx, w.dev.tx, es⟩ :=
    hw.dev.trans (congrArg (fun d : DeviceInput => { d with txReady := ts, tx := w.dev.tx }) hv.dev)
  have hcontent : ringContent (beforeTransmit v tr ts) .tx = ringContent s .tx := hv.content_tx
  have hused : usedNow (beforeTransmit v tr ts) .tx = usedNow s .tx := hv.usedNow_tx
  have hcount : transmittedCount tr k (beforeTransmit v tr ts) = transmittedCount tr k s := by
    rw [transmittedCount, hused, transmittedCount]
  have hreply := isrOp_one_iteration s.issuer hdev hreceive (congrArg DeviceInput.txReady hv.dev) htransmit
    (congrArg DeviceInput.poll hwdev)
  have hdone := (exec_of_reply hready hreply).trans (congrArg _ (respond_ok0 ..))
  refine ⟨receivedCount rr xs s, transmittedCount tr k s, _, rfl, rfl, hdone, hw.ovrCnt.trans hv.ovrCnt,
    hw.frmCnt.trans hv.frmCnt, hw.content_rx.trans hv.content, ?_, ?_, ?_, ?_, ?_, hw.rxie.trans hv.rxie,
    hw.tmr.trans hv.tmr, hw.wake_rx.trans hv.wake_rx, ?_, ?_, fun hrr => hw.storage.trans (hv.storage hrr), ?_, ?_⟩
  · exact (congrArg PerChan.rx hw.widx).trans hv.widx_rx
  · refine hw.content.trans ?_
    rw [hcontent, hcount]
  · refine hw.ridx_tx.trans ?_
    rw [hcount]
    exact congrArg (PerChan.tx · + _) hv.ridx
  · refine hw.sent.trans ?_
    rw [hcontent, hcount]
    exact congrArg (· ++ _) hv.sent
  · refine (congrArg (fun d : DeviceInput => { d with poll := ps }) hwdev).trans ?_
    have hrx : v.dev.rx = if rr ∧ xs.length < roomNow s .rx then rest else s.dev.rx.drop (receivedCount rr xs s) := by
      rw [hdev]
      exact hv.dev_rx
    have htx : w.dev.tx = if tr ∧ k < usedNow s .tx then ws else s.dev.tx.drop (transmittedCount tr k s) := by
      rw [← hvtx, ← hused, ← hcount]
      exact hw.dev_tx
    rw [hrx, htx]
  · refine hw.txie.trans ?_
    rw [hused, hcount]
    exact congrArg (fun b => if tr then b && _ else b) hv.txie
  · refine hw.wake_tx.trans ?_
    have hcap : (beforeTransmit v tr ts).cap = s.cap := hv.cap
    have hwake : (beforeTransmit v tr ts).wake.tx = s.wake.tx := hv.wake_tx
    rw [hused, hcount, hcap, hwake]
  · refine (hw.run_isr.trans hv.run_isr).trans ?_
    have hissuer : s.issuer = .isr := beq_iff_eq.1 hready.1
    exact hissuer ▸ hready.2.1
  · exact congrArg _ (hw.responses.trans hv.responses)

/-- Settles O46: each of them answers from one state, and the frame of that state is the frame of the operation. -/
theorem policyFrame : Obligations.PolicyFrame := by
  intro s t
  refine ⟨fun ch h => ?_, fun h => ?_, fun h => ?_, fun h => ?_, fun h => ?_, fun h => ?_, fun h => ?_, fun h => ?_,
    fun ch i hi h d a => ?_⟩
  · obtain ⟨u, r, rfl | rfl, rfl⟩ := exec_next_of_reply h rfl
    · exact ⟨rfl, fun _ _ => rfl⟩
    · rw [latch_both]
      exact ⟨rfl, fun d hd => PerChan.get_set_ne _ _ _ _ hd⟩
  · obtain ⟨u, r, rfl | rfl, rfl⟩ := exec_next_of_reply h (fcTxtOp_reply s)
    · rfl
    · rw [fcTxtState_frame]
      rfl
  · obtain ⟨u, r, rfl | rfl, rfl⟩ := exec_next_of_reply h (fcRxtOp_reply s)
    · rfl
    · rw [fcRxtState_frame]
      rfl
  · obtain ⟨u, r, rfl | rfl, rfl⟩ := exec_next_of_reply h (fcTxiOp_reply s)
    · exact ⟨rfl, rfl, fun _ _ => rfl⟩
    · refine ⟨?_, ?_, fun a ha => ?_⟩
      · rw [fcTxiState_frame]
        rfl
      · rw [State.respond_wake, fcTxiState_wake]
        split <;> rfl
      · rw [State.respond_run, fcTxiState_run]
        split
        · exact PerAgent.get_set_ne _ _ _ _ ha
        · rfl
  · obtain ⟨u, r, rfl | rfl, rfl⟩ := exec_next_of_reply h (fcRxiOp_reply s)
    · exact ⟨rfl, rfl, fun _ _ => rfl⟩
    · refine ⟨?_, ?_, fun a ha => ?_⟩
      · rw [fcRxiState_frame]
        rfl
      · rw [State.respond_wake, fcRxiState_wake]
        split <;> rfl
      · rw [State.respond_run, fcRxiState_run]
        split
        · exact PerAgent.get_set_ne _ _ _ _ ha
        · rfl
  · obtain ⟨u, r, rfl | rfl, rfl⟩ := exec_next_of_reply h (errChkOp_reply s)
    · rfl
    · rw [devErrors_frame]
      rfl
  · obtain ⟨u, r, rfl | rfl, rfl⟩ := exec_next_of_reply h rfl <;> rfl
  · rcases h with h | h
    · obtain ⟨u, r, rfl | rfl, rfl⟩ := exec_next_of_reply h rfl
      · rfl
      · rw [armTimer_frame]
        rfl
    · obtain ⟨u, r, rfl | rfl, rfl⟩ := exec_next_of_reply h rfl
      · rfl
      · rw [stopTimer_frame]
        rfl
  · exact memRead_congr s t d a (by rw [policy_storage hi h])

/-- Settles O59: every event is the handler's, which moves a byte or disables with nothing to move, or the thread's,
which opens a burst with the property and closes it with a decision that restores the property, or another agent's,
which touches neither side; a whole operation is its events. -/
theorem flowInvariantKept : Obligations.FlowInvariantKept := fun _ _ => step_flowInv

/-- Settles O60: outside a burst the thread's side is the property itself. -/
theorem flowInvariantGivesEnables : Obligations.FlowInvariantGivesEnables := by
  intro s hs
  obtain ⟨-, hside, -⟩ := (flowInv_iff s).1 hs
  refine ⟨fun hout hdata => ?_, fun hout hroom => ?_⟩
  · refine ((chanFlowOk_iff s .tx).1 (txFlowOk_of_no_burst (hside .tx) hout)).resolve_left fun hempty => ?_
    exact hdata.ne' ((isEmptyNow_iff s .tx).1 hempty)
  · refine ((chanFlowOk_iff s .rx).1 (rxFlowOk_of_no_burst (hside .rx) hout)).resolve_left fun hfull => ?_
    exact hroom.not_ge ((isFullNow_iff s .rx).1 hfull)

end Sys2Proof.Proofs
end

section
/-! SUPPORT. What the bursts and the handler may change, whatever the device answers (42_interrupt_handler.md R180 to
R183): none of them raises a violation, and the stores into the RX ring go to the slots of the write counter values
passed. -/

namespace Sys2Proof.Machine

/-! ### The frames of the device calls -/

section

variable (s : State)

theorem devErrors_trace : s.devErrors.2.trace = .checkAndClearErrors s.devErrors.1 :: s.trace := by
  unfold State.devErrors
  split <;> rfl

theorem devPoll_frame :
    s.devPoll.2 = { s with
      dev := { s.dev with poll := s.devPoll.2.dev.poll }, freeCtr := s.devPoll.2.freeCtr
      trace := s.devPoll.2.trace } := by
  unfold State.devPoll
  split <;> rfl

theorem devRxReady_frame :
    s.devRxReady.2 = { s with
      dev := { s.dev with rxReady := s.devRxReady.2.dev.rxReady }, freeCtr := s.devRxReady.2.freeCtr
      trace := s.devRxReady.2.trace } := by
  unfold State.devRxReady
  split <;> rfl

theorem devTxReady_frame :
    s.devTxReady.2 = { s with
      dev := { s.dev with txReady := s.devTxReady.2.dev.txReady }, freeCtr := s.devTxReady.2.freeCtr
      trace := s.devTxReady.2.trace } := by
  unfold State.devTxReady
  split <;> rfl

theorem devRead_frame :
    s.devRead.2 = { s with
      dev := { s.dev with rx := s.devRead.2.dev.rx }, freeCtr := s.devRead.2.freeCtr
      trace := s.devRead.2.trace } := by
  unfold State.devRead
  split <;> rfl

theorem devWrite_frame (b : Byte) :
    (s.devWrite b).2 = { s with
      dev := { s.dev with tx := (s.devWrite b).2.dev.tx }, freeCtr := (s.devWrite b).2.freeCtr
      trace := (s.devWrite b).2.trace } := by
  unfold State.devWrite
  split <;> rfl

end

/-! ### The RX ring -/

/-- How many values the RX write counter passes from `s` to `t`. -/
def passed (s t : State) : Nat := (t.widx.rx - s.widx.rx).toNat

/-- From `s` to `t` the level of the RX ring has risen by the values its write counter passed, so that the counter
has not gone round, and every byte outside the slots of these values is as it was. -/
structure StoredInPassed (s t : State) : Prop where
  cap : t.cap.rx = s.cap.rx
  level : usedNow t .rx = usedNow s .rx + passed s t
  kept : ∀ i, (∀ k, k < passed s t → i ≠ slotOf (s.widx.rx + BitVec.ofNat 16 k) s.cap.rx) →
    t.memRead .rx i = s.memRead .rx i

theorem StoredInPassed.of_same {s t : State} (hcap : t.cap.rx = s.cap.rx) (hstorage : t.storage.rx = s.storage.rx)
    (hwidx : t.widx.rx = s.widx.rx) (hridx : t.ridx.rx = s.ridx.rx) : StoredInPassed s t where
  cap := hcap
  level := by
    have hused : usedNow t .rx = usedNow s .rx := congrArg₂ (fun w r => (usedOf w r).toNat) hwidx hridx
    rw [hused, passed, hwidx, BitVec.sub_self]
    rfl
  kept := fun i _ => memRead_congr s t .rx i hstorage

/-- The levels of both parts are below `2^16`, so the counts of passed values add up. -/
theorem StoredInPassed.passed_trans {s m t : State} (h : StoredInPassed s m) (k : StoredInPassed m t) :
    passed s t = passed s m + passed m t := by
  have hlevel := k.level
  rw [h.level] at hlevel
  have hlt : usedNow t .rx < 2 ^ 16 := (usedOf (t.widx.get .rx) (t.ridx.get .rx)).isLt
  have hsum : t.widx.rx - s.widx.rx = (m.widx.rx - s.widx.rx) + (t.widx.rx - m.widx.rx) := by
    bv_omega
  rw [passed, hsum, BitVec.toNat_add, ← passed, ← passed, Nat.mod_eq_of_lt (by omega)]

theorem StoredInPassed.trans {s m t : State} (h : StoredInPassed s m) (k : StoredInPassed m t) :
    StoredInPassed s t where
  cap := k.cap.trans h.cap
  level := by rw [k.level, h.level, h.passed_trans k, Nat.add_assoc]
  kept := fun i hi => by
    rw [h.passed_trans k] at hi
    have hm : m.widx.rx = s.widx.rx + BitVec.ofNat 16 (passed s m) := by
      rw [passed, BitVec.ofNat_toNat, BitVec.setWidth_eq, BitVec.add_comm, BitVec.sub_add_cancel]
    refine (k.kept i fun j hj => ?_).trans (h.kept i fun j hj => hi j (Nat.lt_add_right _ hj))
    rw [hm, BitVec.add_assoc, ← BitVec.ofNat_add, h.cap]
    exact hi _ (Nat.add_lt_add_left hj _)

/-- What `PUSH RX` does where there is room. -/
def pushRx (s : State) (b : Byte) : State :=
  (s.memWrite .rx (slotOf (s.widx.get .rx) (s.cap.get .rx)) b).setWidx .rx (inc16 (s.widx.get .rx))

theorem passed_pushRx (s : State) (b : Byte) : passed s (pushRx s b) = 1 := by
  have hone : inc16 s.widx.rx - s.widx.rx = 1 := add_sub_cancel_left ..
  exact congrArg BitVec.toNat hone

/-- `PUSH RX` stores to the slot of the one value it passes. -/
theorem StoredInPassed.push {s : State} (hroom : isFullNow s .rx = false) (b : Byte) :
    StoredInPassed s (pushRx s b) where
  cap := rfl
  level := by
    have hlt := (isFullNow_false_iff s .rx).1 hroom
    have hcap := (s.cap.get .rx).isLt
    have hstep : usedNow s .rx + 1 < 2 ^ 16 := by omega
    calc usedNow (pushRx s b) .rx = (usedOf (s.widx.get .rx) (s.ridx.get .rx) + 1).toNat :=
          congrArg BitVec.toNat (usedOf_inc16_left ..)
      _ = (usedNow s .rx + 1) % 2 ^ 16 := BitVec.toNat_add ..
      _ = usedNow s .rx + passed s (pushRx s b) := by rw [Nat.mod_eq_of_lt hstep, passed_pushRx]
  kept := fun i hi => by
    have hslot : i ≠ slotOf (s.widx.rx + 0#16) s.cap.rx := hi 0 (by rw [passed_pushRx]; exact Nat.one_pos)
    rw [BitVec.add_zero] at hslot
    exact memRead_memWrite_other s .rx .rx _ i b fun heq => hslot (Prod.mk.inj heq).2

/-! ### `RXBURST` -/

/-- The elements the receive burst may write (R182). -/
structure ReceiveFrame (s t : State) : Prop where
  frame : t = { s with
    storage := t.storage, widx := t.widx, rxie := t.rxie, tmr := t.tmr, wake := t.wake, run := t.run
    dev := { s.dev with rx := t.dev.rx }, freeCtr := t.freeCtr, trace := t.trace }
  storage_tx : t.storage.tx = s.storage.tx
  widx_tx : t.widx.tx = s.widx.tx
  wake_tx : t.wake.tx = s.wake.tx
  run : ∀ a, a ≠ .rxt → t.run.get a = s.run.get a
  stored : StoredInPassed s t

namespace ReceiveFrame

theorem refl (s : State) : ReceiveFrame s s := ⟨rfl, rfl, rfl, rfl, fun _ _ => rfl, .of_same rfl rfl rfl rfl⟩

theorem trans {s m t : State} (h : ReceiveFrame s m) (k : ReceiveFrame m t) : ReceiveFrame s t where
  frame := k.frame.trans (by rw [h.frame])
  storage_tx := k.storage_tx.trans h.storage_tx
  widx_tx := k.widx_tx.trans h.widx_tx
  wake_tx := k.wake_tx.trans h.wake_tx
  run := fun a ha => (k.run a ha).trans (h.run a ha)
  stored := h.stored.trans k.stored

theorem read (s : State) : ReceiveFrame s s.devRead.2 := by
  rw [devRead_frame]
  exact ⟨rfl, rfl, rfl, rfl, fun _ _ => rfl, .of_same rfl rfl rfl rfl⟩

theorem push {s : State} (hroom : isFullNow s .rx = false) (b : Byte) :
    ReceiveFrame s (pushRx s b) :=
  ⟨rfl, rfl, rfl, rfl, fun _ _ => rfl, .push hroom b⟩

theorem policy (s : State) : ReceiveFrame s (fcRxiState s) where
  frame := (fcRxiState_frame s).trans (by rw [fcRxiState_frame])
  storage_tx := by rw [fcRxiState_frame]
  widx_tx := by rw [fcRxiState_frame]
  wake_tx := by
    rw [fcRxiState_wake]
    split <;> rfl
  run := fun a ha => by
    rw [fcRxiState_run]
    split
    · exact PerAgent.get_set_ne _ _ _ _ ha
    · rfl
  stored := by
    rw [fcRxiState_frame]
    exact .of_same rfl rfl rfl rfl

end ReceiveFrame

/-- A pass of the loop stops at a full ring or at a device with nothing more, else there is room for the byte read. -/
theorem rxBurstLoop_frame (a : Agent) (fuel : Nat) (s : State) :
    ∃ t, rxBurstLoop a fuel s = .reply t Reply.ok0 ∧ ReceiveFrame s t := by
  induction fuel generalizing s with
  | zero => exact ⟨s, rfl, .refl s⟩
  | succ fuel ih =>
    rw [rxBurstLoop, queryOp, andThen_reply]
    split
    · exact ⟨s, rfl, .refl s⟩
    · next hvalue =>
      have hread := ReceiveFrame.read s
      rcases hx : s.devRead with ⟨_ | x, m⟩ <;> rw [hx] at hread
      · exact ⟨m, rfl, hread⟩
      · have hroom : isFullNow m .rx = false := by
          rw [(SameBlock.devRead hx).isFullNow_eq .rx, ← Bool.not_eq_true]
          exact fun hfull => hvalue ((queryReply_full_value ..).2 hfull)
        obtain ⟨t, hloop, ht⟩ := ih _
        refine ⟨t, ?_, (hread.trans (.push hroom x)).trans ht⟩
        exact (congrArg (Result.andThen · _) (pushOp_of_room .rx x a m hroom)).trans hloop

theorem rxBurstOp_frame (a : Agent) (s : State) :
    ∃ t, rxBurstOp a s = .reply t Reply.ok0 ∧ ReceiveFrame s t := by
  obtain ⟨t, hloop, ht⟩ := rxBurstLoop_frame a (roomOf s .rx) s
  refine ⟨fcRxiState t, ?_, ht.trans (.policy t)⟩
  rw [rxBurstOp, hloop]
  rfl

/-! ### `TXBURST` -/

/-- The elements the transmit burst may write (R183). -/
structure TransmitFrame (s t : State) : Prop where
  frame : t = { s with
    ridx := t.ridx, txie := t.txie, wake := t.wake, run := t.run, dev := { s.dev with tx := t.dev.tx }
    freeCtr := t.freeCtr, trace := t.trace }
  ridx_rx : t.ridx.rx = s.ridx.rx
  wake_rx : t.wake.rx = s.wake.rx
  run : ∀ a, a ≠ .txt → t.run.get a = s.run.get a

namespace TransmitFrame

theorem refl (s : State) : TransmitFrame s s := ⟨rfl, rfl, rfl, fun _ _ => rfl⟩

theorem trans {s m t : State} (h : TransmitFrame s m) (k : TransmitFrame m t) : TransmitFrame s t where
  frame := k.frame.trans (by rw [h.frame])
  ridx_rx := k.ridx_rx.trans h.ridx_rx
  wake_rx := k.wake_rx.trans h.wake_rx
  run := fun a ha => (k.run a ha).trans (h.run a ha)

theorem write (s : State) (b : Byte) : TransmitFrame s (s.devWrite b).2 := by
  rw [devWrite_frame]
  exact ⟨rfl, rfl, rfl, fun _ _ => rfl⟩

theorem pop (s : State) (r : Index) : TransmitFrame s (s.setRidx .tx r) := ⟨rfl, rfl, rfl, fun _ _ => rfl⟩

theorem policy (s : State) : TransmitFrame s (fcTxiState s) where
  frame := (fcTxiState_frame s).trans (by rw [fcTxiState_frame])
  ridx_rx := by rw [fcTxiState_frame]
  wake_rx := by
    rw [fcTxiState_wake]
    split <;> rfl
  run := fun a ha => by
    rw [fcTxiState_run]
    split
    · exact PerAgent.get_set_ne _ _ _ _ ha
    · rfl

end TransmitFrame

/-- A pass of the loop stops at an empty ring or at a refused write, else there is a byte to peek and to pop. -/
theorem txBurstLoop_frame (a : Agent) (fuel : Nat) (s : State) :
    ∃ t, txBurstLoop a fuel s = .reply t Reply.ok0 ∧ TransmitFrame s t := by
  induction fuel generalizing s with
  | zero => exact ⟨s, rfl, .refl s⟩
  | succ fuel ih =>
    rw [txBurstLoop, queryOp, andThen_reply]
    split
    · exact ⟨s, rfl, .refl s⟩
    · next hvalue =>
      have hdata : isEmptyNow s .tx = false := by
        rw [← Bool.not_eq_true]
        exact fun hempty => hvalue ((queryReply_empty_value ..).2 hempty)
      rw [peekOp_of_data .tx a s hdata, andThen_reply]
      generalize BitVec.setWidth 8 _ = b
      have hwrite := TransmitFrame.write s b
      rcases hx : s.devWrite b with ⟨_ | _, m⟩ <;> rw [hx] at hwrite
      · exact ⟨m, rfl, hwrite⟩
      · have hpop := popOp_of_data .tx a m (((SameBlock.devWrite hx).isEmptyNow_eq .tx).trans hdata)
        obtain ⟨t, hloop, ht⟩ := ih _
        exact ⟨t, (congrArg (Result.andThen · _) hpop).trans hloop, (hwrite.trans (.pop m _)).trans ht⟩

theorem txBurstOp_frame (a : Agent) (s : State) :
    ∃ t, txBurstOp a s = .reply t Reply.ok0 ∧ TransmitFrame s t := by
  obtain ⟨t, hloop, ht⟩ := txBurstLoop_frame a (usedOf (s.widx.get .tx) (s.ridx.get .tx)).toNat s
  refine ⟨fcTxiState t, ?_, ht.trans (.policy t)⟩
  rw [txBurstOp, hloop]
  rfl

/-! ### `ISR` -/

/-- The elements the handler may write before it answers or stops (R180 to R183). -/
structure IsrFrame (s t : State) : Prop where
  frame : t = { s with
    storage := t.storage, widx := t.widx, ridx := t.ridx, rxie := t.rxie, txie := t.txie, tmr := t.tmr
    wake := t.wake, run := t.run, ovrCnt := t.ovrCnt, frmCnt := t.frmCnt, dev := t.dev, freeCtr := t.freeCtr
    trace := t.trace }
  storage_tx : t.storage.tx = s.storage.tx
  widx_tx : t.widx.tx = s.widx.tx
  ridx_rx : t.ridx.rx = s.ridx.rx
  run : ∀ a, a ≠ .rxt → a ≠ .txt → t.run.get a = s.run.get a
  stored : StoredInPassed s t

namespace IsrFrame

theorem refl (s : State) : IsrFrame s s := ⟨rfl, rfl, rfl, rfl, fun _ _ _ => rfl, .of_same rfl rfl rfl rfl⟩

theorem trans {s m t : State} (h : IsrFrame s m) (k : IsrFrame m t) : IsrFrame s t where
  frame := k.frame.trans (by rw [h.frame])
  storage_tx := k.storage_tx.trans h.storage_tx
  widx_tx := k.widx_tx.trans h.widx_tx
  ridx_rx := k.ridx_rx.trans h.ridx_rx
  run := fun a hrx htx => (k.run a hrx htx).trans (h.run a hrx htx)
  stored := h.stored.trans k.stored

/-- A call that the device answers writes the fields of the environment only. -/
theorem call (s : State) (d : DeviceInput) (n : Nat) (cs : List EnvCall) :
    IsrFrame s { s with dev := d, freeCtr := n, trace := cs } :=
  ⟨rfl, rfl, rfl, rfl, fun _ _ _ => rfl, .of_same rfl rfl rfl rfl⟩

theorem poll (s : State) : IsrFrame s s.devPoll.2 := by
  rw [devPoll_frame]
  exact call ..

theorem errors (s : State) : IsrFrame s (countErrors s.devErrors.2 s.devErrors.1) := by
  rw [devErrors_frame]
  exact ⟨rfl, rfl, rfl, rfl, fun _ _ _ => rfl, .of_same rfl rfl rfl rfl⟩

theorem rxReady (s : State) : IsrFrame s s.devRxReady.2 := by
  rw [devRxReady_frame]
  exact call ..

theorem txReady (s : State) : IsrFrame s s.devTxReady.2 := by
  rw [devTxReady_frame]
  exact call ..

theorem fault {s t : State} (h : IsrFrame s t) : t.fault = s.fault := by rw [h.frame]

theorem responses {s t : State} (h : IsrFrame s t) : t.responses = s.responses := by rw [h.frame]

end IsrFrame

theorem ReceiveFrame.isr {s t : State} (h : ReceiveFrame s t) : IsrFrame s t where
  frame := by rw [h.frame]
  storage_tx := h.storage_tx
  widx_tx := h.widx_tx
  ridx_rx := by rw [h.frame]
  run := fun a ha _ => h.run a ha
  stored := h.stored

theorem TransmitFrame.isr {s t : State} (h : TransmitFrame s t) : IsrFrame s t where
  frame := by rw [h.frame]
  storage_tx := by rw [h.frame]
  widx_tx := by rw [h.frame]
  ridx_rx := h.ridx_rx
  run := fun a _ ha => h.run a ha
  stored := .of_same (by rw [h.frame]) (by rw [h.frame]) (by rw [h.frame]) h.ridx_rx

/-- `ISR.3`, the receive half: run or left out. -/
theorem receiveHalf_frame (a : Agent) (rr : Bool) (s : State) :
    ∃ t, (if rr then rxBurstOp a s else .reply s Reply.ok0) = .reply t Reply.ok0 ∧ ReceiveFrame s t := by
  cases rr with
  | false => exact ⟨s, rfl, .refl s⟩
  | true => exact rxBurstOp_frame a s

/-- `ISR.4`, the transmit half: run or left out. -/
theorem transmitHalf_frame (a : Agent) (tr : Bool) (s : State) :
    ∃ t, (if tr then txBurstOp a s else .reply s Reply.ok0) = .reply t Reply.ok0 ∧ TransmitFrame s t := by
  cases tr with
  | false => exact ⟨s, rfl, .refl s⟩
  | true => exact txBurstOp_frame a s

/-- An iteration answers and takes no poll. -/
theorem isrIteration_frame (a : Agent) (s : State) :
    ∃ t, isrIteration a s = .reply t Reply.ok0 ∧ IsrFrame s t ∧ t.dev.poll = s.dev.poll := by
  have herrors := IsrFrame.errors s
  have herrorsPoll : (countErrors s.devErrors.2 s.devErrors.1).dev.poll = s.dev.poll := by
    rw [devErrors_frame]
    rfl
  rw [isrIteration, errChkOp_reply, andThen_reply]
  generalize countErrors s.devErrors.2 s.devErrors.1 = m at *
  obtain ⟨u, hreceive, hu⟩ := receiveHalf_frame a m.devRxReady.1 m.devRxReady.2
  obtain ⟨t, htransmit, ht⟩ := transmitHalf_frame a u.devTxReady.1 u.devTxReady.2
  refine ⟨t, (congrArg (Result.andThen · _) hreceive).trans htransmit, ?_, ?_⟩
  · exact (((herrors.trans (.rxReady m)).trans hu.isr).trans (.txReady u)).trans ht.isr
  · rw [ht.frame, devTxReady_frame, hu.frame, devRxReady_frame, ← herrorsPoll]

/-- Wherever the loop ends, the handler has answered or stands at `ISR.1`. -/
theorem isrLoop_frame (a : Agent) (fuel : Nat) (s : State) :
    ∃ t, IsrFrame s t ∧
      (isrLoop a fuel s = .reply t Reply.ok0 ∨ isrLoop a fuel s = .inProgress t .busy .isr1 []) := by
  induction fuel generalizing s with
  | zero => exact ⟨s, .refl s, .inr rfl⟩
  | succ fuel ih =>
    have hpoll := IsrFrame.poll s
    rw [isrLoop]
    rcases hanswer : s.devPoll with ⟨_ | _, m⟩ <;> rw [hanswer] at hpoll
    · exact ⟨m, hpoll, .inl rfl⟩
    · obtain ⟨u, hiteration, hu, -⟩ := isrIteration_frame a m
      obtain ⟨t, ht, hend⟩ := ih u
      refine ⟨t, (hpoll.trans hu).trans ht, ?_⟩
      dsimp only
      rw [hiteration]
      exact hend

/-- With enough fuel the loop returns at the first poll that is not pending: no iteration takes a poll. -/
theorem isrLoop_returns (a : Agent) {ps : List Bool} (pre : List Bool) (fuel : Nat) (s : State)
    (hpoll : s.dev.poll = pre ++ false :: ps) (hpending : ∀ p ∈ pre, p = true) (hfuel : pre.length < fuel) :
    ∃ t, isrLoop a fuel s = .reply t Reply.ok0 ∧ IsrFrame s t ∧ t.dev.poll = ps := by
  obtain ⟨fuel, rfl⟩ := Nat.exists_eq_add_one.2 (Nat.zero_lt_of_lt hfuel)
  induction pre generalizing fuel s with
  | nil =>
    have hanswer := devPoll_cons s false ps hpoll
    refine ⟨s.devPoll.2, ?_, .poll s, ?_⟩
    · rw [isrLoop, hanswer]
    · rw [hanswer]
  | cons p pre ih =>
    obtain rfl : p = true := hpending p List.mem_cons_self
    have hanswer := devPoll_cons s true (pre ++ false :: ps) hpoll
    obtain ⟨fuel, rfl⟩ := Nat.exists_eq_add_one.2 (Nat.zero_lt_of_lt (Nat.lt_of_succ_lt_succ hfuel))
    obtain ⟨u, hiteration, hu, hupoll⟩ := isrIteration_frame a s.devPoll.2
    obtain ⟨t, hloop, ht, htpoll⟩ := ih u (hupoll.trans (by rw [hanswer]))
      (fun q hq => hpending q (List.mem_cons_of_mem _ hq)) fuel (Nat.lt_of_succ_lt_succ hfuel)
    refine ⟨t, ?_, ((IsrFrame.poll s).trans hu).trans ht, htpoll⟩
    rw [isrLoop]
    rw [hanswer] at hiteration ⊢
    exact (congrArg (Result.andThen · _) hiteration).trans hloop

/-! ### `ISR` as a command -/

/-- The handler entered with nothing pending: the poll is its one event. -/
theorem isrOp_of_not_pending (a : Agent) {s : State} {ps : List Bool} (hpoll : s.dev.poll = false :: ps) :
    isrOp a s = .reply { s with
      dev := { s.dev with poll := ps }, trace := .pollPendingInterrupt false :: s.trace } Reply.ok0 := by
  rw [isrOp, isrLoop, devPoll_cons s false ps hpoll]

/-- The handler left BUSY at `ISR.1` (log 13). -/
def pausedAtIsr1 (s : State) (a : Agent) : State := (s.setSeq a (some ⟨.isr1, []⟩)).setRun a .busy

theorem isr_of_ready {s : State} (hready : ready .isr s) : s.issuer = .isr := beq_iff_eq.1 hready.1

theorem IsrFrame.isr_idle {s m : State} (h : IsrFrame s m) (hready : ready .isr s) : m.run.get .isr = .idle :=
  (h.run .isr nofun nofun).trans (isr_of_ready hready ▸ hready.2.1)

theorem exec_isr_of_ready {s : State} (hready : ready .isr s) :
    ∃ m, IsrFrame s m ∧ (exec .isr s = .next (m.respond s.issuer Reply.ok0) ∨
      exec .isr s = .next (pausedAtIsr1 m s.issuer)) := by
  obtain ⟨m, hm, hend⟩ := isrLoop_frame s.issuer (s.dev.poll.length + 1) s
  rw [exec_of_ready hready]
  exact ⟨m, hm, hend.imp (congrArg (complete s.issuer)) (congrArg (complete s.issuer))⟩

/-- Every next state of `ISR`: answered, by R96 or by its own rule, or paused. -/
theorem exec_isr_next {s t : State} (h : exec .isr s = .next t) :
    ∃ m, IsrFrame s m ∧ ((∃ r, t = m.respond s.issuer r) ∨ t = pausedAtIsr1 m .isr) := by
  rcases exec_answered_or_ready h with hanswered | ⟨hready, -⟩
  · exact ⟨s, .refl s, .inl hanswered⟩
  · obtain ⟨m, hm, hend⟩ := exec_isr_of_ready hready
    rw [h, isr_of_ready hready] at hend
    rcases hend with hend | hend <;> cases hend
    · exact ⟨m, hm, .inl ⟨_, congrArg (m.respond · _) (isr_of_ready hready).symm⟩⟩
    · exact ⟨m, hm, .inr rfl⟩

end Sys2Proof.Machine
end

section
/-! PROOFS. The statements of 42_interrupt_handler.md. -/

namespace Sys2Proof.Proofs

open Sys2Proof Sys2Proof.Machine

/-- Settles O28: an iteration always answers and takes no poll, so only a poll ends the loop. -/
theorem handlerReturnsWhenNotPending : Obligations.HandlerReturnsWhenNotPending := by
  refine ⟨fun s ps hready hpoll => ?_, fun s pre ps hready hpoll hpending => ?_, fun s hready => ?_⟩
  · exact (exec_of_reply hready (isrOp_of_not_pending s.issuer hpoll)).trans (congrArg _ (respond_ok0 ..))
  · have hfuel : pre.length < s.dev.poll.length + 1 := by
      rw [hpoll, List.length_append]
      omega
    obtain ⟨m, hloop, hm, hmpoll⟩ := isrLoop_returns s.issuer pre _ s hpoll hpending hfuel
    have hdone := (exec_of_reply hready hloop).trans (congrArg _ (respond_ok0 ..))
    exact ⟨_, hdone, hmpoll, hm.isr_idle hready, hm.fault, congrArg _ hm.responses⟩
  · obtain ⟨m, hm, hend | hend⟩ := exec_isr_of_ready hready
    · refine ⟨_, hend.trans (congrArg _ (respond_ok0 ..)), hm.fault, .inl ⟨hm.isr_idle hready, ?_⟩⟩
      exact congrArg _ hm.responses
    · rw [isr_of_ready hready] at hend
      exact ⟨_, hend, hm.fault, .inr ⟨rfl, rfl, hm.responses⟩⟩

/-- Settles O30: the one call's answer is the flags that `ERRCHK` counts. -/
theorem errorFlagsAreCounted : Obligations.ErrorFlagsAreCounted := by
  intro s hready
  have hdone := (exec_of_reply hready (errChkOp_reply s)).trans (congrArg _ (respond_ok0 ..))
  refine ⟨s.devErrors.1, _, hdone, fun e es herr => ?_, ?_, ?_, ?_, ?_⟩
  · rw [devErrors_cons s e es herr]
    exact ⟨rfl, rfl⟩
  · exact devErrors_trace s
  · exact congrArg (· + _) (State.devErrors_ovrCnt s)
  · exact congrArg (· + _) (State.devErrors_frmCnt s)
  · exact congrArg _ (State.devErrors_responses s)

/-- Settles O31: the receive half of an iteration whose ready answer is yes. -/
theorem rxBurstFillsRing : Obligations.RxBurstFillsRing := by
  intro s xs rest hready hring hrx
  obtain ⟨hlegal, -⟩ := Bool.and_eq_true_iff.1 hring
  obtain ⟨t, hburst, ht⟩ := serveReceive s.issuer true hlegal hrx
  have hdone := (exec_of_reply hready hburst).trans (congrArg _ (respond_ok0 ..))
  refine ⟨receivedCount true xs s, _, rfl, hdone, ht.content, ht.widx_rx, ?_, ht.rxie, ht.tmr, ?_, ?_⟩
  · exact ht.dev_rx.trans (if_congr (and_iff_right rfl) rfl rfl)
  · exact ht.wake_rx.trans (if_congr (and_iff_right rfl) rfl rfl)
  · exact congrArg _ ht.responses

/-- Settles O32: the transmit half of an iteration whose ready answer is yes. -/
theorem txBurstDrainsRing : Obligations.TxBurstDrainsRing := by
  intro s k ws hready htx
  obtain ⟨t, hburst, ht⟩ := serveTransmit s.issuer true htx
  have hdone := (exec_of_reply hready hburst).trans (congrArg _ (respond_ok0 ..))
  refine ⟨transmittedCount true k s, _, rfl, hdone, ht.sent, ht.content, ht.ridx_tx, ?_, ht.txie, ?_, ?_⟩
  · exact ht.dev_tx.trans (if_congr (and_iff_right rfl) rfl rfl)
  · exact ht.wake_tx.trans (if_congr (and_iff_right rfl) rfl rfl)
  · exact congrArg _ ht.responses

/-- Settles O48: each of them keeps its frame pass by pass; a response and a pause write
only the handler's own entries. -/
theorem handlerFrame : Obligations.HandlerFrame := by
  intro s t
  refine ⟨fun h => ?_, fun h => ?_, fun h => ?_⟩
  · obtain ⟨m, hreply, hm⟩ := rxBurstOp_frame s.issuer s
    obtain ⟨u, r, hans, rfl⟩ := exec_next_of_reply h hreply
    have hu : ReceiveFrame s u := hans.elim (fun heq => heq ▸ .refl s) (fun heq => heq ▸ hm)
    refine ⟨?_, hu.widx_tx, hu.wake_tx, hu.run, fun i => memRead_congr s u .tx i hu.storage_tx, hu.stored.kept⟩
    rw [hu.frame]
    rfl
  · obtain ⟨m, hreply, hm⟩ := txBurstOp_frame s.issuer s
    obtain ⟨u, r, hans, rfl⟩ := exec_next_of_reply h hreply
    have hu : TransmitFrame s u := hans.elim (fun heq => heq ▸ .refl s) (fun heq => heq ▸ hm)
    have hstorage : u.storage = s.storage := by rw [hu.frame]
    refine ⟨?_, hu.ridx_rx, hu.wake_rx, hu.run,
      fun d i => memRead_congr s u d i (congrArg (PerChan.get · d) hstorage)⟩
    rw [hu.frame]
    rfl
  · obtain ⟨m, hm, hend⟩ := exec_isr_next h
    have hseq : m.seq = s.seq := by rw [hm.frame]
    rcases hend with ⟨r, rfl⟩ | rfl
    · refine ⟨?_, hm.widx_tx, hm.ridx_rx, fun a hrx htx _ => hm.run a hrx htx,
        fun a _ => congrArg (PerAgent.get · a) hseq, fun i => memRead_congr s m .tx i hm.storage_tx, hm.stored.kept⟩
      rw [hm.frame]
      rfl
    · refine ⟨?_, hm.widx_tx, hm.ridx_rx, fun a hrx htx ha => ?_, fun a ha => ?_,
        fun i => memRead_congr s m .tx i hm.storage_tx, hm.stored.kept⟩
      · rw [hm.frame]
        rfl
      · exact (PerAgent.get_set_ne _ _ _ _ ha).trans (hm.run a hrx htx)
      · exact (PerAgent.get_set_ne _ _ _ _ ha).trans (congrArg (PerAgent.get · a) hseq)

end Sys2Proof.Proofs
end

section
/-! SUPPORT. The writing thread calls as whole operations (43_thread_api.md R210, R211): the bytes they append to the TX
ring, their answers, and what they leave as it was. -/

namespace Sys2Proof.Machine

/-! ### Responses -/

theorem ofNat_toNat_of_lt {n : Nat} (hn : n < 65536) : (BitVec.ofNat 16 n).toNat = n := Nat.mod_eq_of_lt hn

/-- The word of an `OK` response that is a count. -/
theorem okVal_count_word {n : Nat} (hn : n < 65536) : (Reply.okVal (BitVec.ofNat 16 n)).word = BitVec.ofNat 32 n := by
  rw [okVal_word]
  refine BitVec.eq_of_toNat_eq ?_
  rw [BitVec.toNat_setWidth, ofNat_toNat_of_lt hn, BitVec.toNat_ofNat]

theorem wrnbReply_status (wanted : Bool) (n : Nat) :
    (wrnbReply wanted n).status = .wouldBlock ↔ n = 0 ∧ wanted := by
  rw [wrnbReply]
  split
  · next h => exact iff_of_true rfl h
  · next h => exact iff_of_false nofun h

theorem wrnbReply_of_ne_zero (wanted : Bool) {n : Nat} (hn : n ≠ 0) :
    wrnbReply wanted n = Reply.okVal (BitVec.ofNat 16 n) :=
  if_neg fun h => hn h.1

theorem respond_wrnbReply (s : State) (a : Agent) (wanted : Bool) {n : Nat} (hn : n < 65536) :
    (s.respond a (wrnbReply wanted n)).responses =
      ⟨a, if n = 0 ∧ wanted then 0x10000000 else BitVec.ofNat 32 n, []⟩ :: s.responses := by
  rw [State.respond_responses, wrnbReply]
  split
  · rw [wouldBlock_word]
    rfl
  · rw [okVal_count_word hn]
    rfl

/-- `WRNB` was given something to write. -/
theorem callerBytes_isEmpty (free len : Nat) (stream : List Byte) :
    (!(callerBytes free len stream).isEmpty) = decide (0 < len) := by
  cases len with
  | zero => rfl
  | succ n => cases stream <;> rfl

/-! ### Bytes appended to the TX ring -/

theorem capLegal_of_ringOk {s : State} {ch : Chan} (h : ringOk s ch = true) : capLegal (s.cap.get ch) = true :=
  (Bool.and_eq_true_iff.1 h).1

theorem roomNow_lt (s : State) (ch : Chan) : roomNow s ch < 65536 :=
  lt_of_le_of_lt (Nat.sub_le ..) (s.cap.get ch).isLt

/-- From `s` to `t` the bytes `bs`, for which there was room, went into the TX ring: they are stored in the slots of the
write counter values passed, and of the rest only what `WRNB`, `WRITE` and `WAIT` may write has changed. -/
structure Appended (bs : List Byte) (s t : State) : Prop where
  frame : t = { s with
    storage := t.storage, widx := t.widx, snap := t.snap, txie := t.txie, wake := t.wake
    freeCtr := t.freeCtr, trace := t.trace }
  storage_rx : t.storage.rx = s.storage.rx
  widx_rx : t.widx.rx = s.widx.rx
  snap_rx : t.snap.rx = s.snap.rx
  wake_rx : t.wake.rx = s.wake.rx
  widx_tx : t.widx.tx = s.widx.tx + BitVec.ofNat 16 bs.length
  room : roomNow t .tx + bs.length = roomNow s .tx
  content : capLegal (s.cap.get .tx) = true → ringContent t .tx = ringContent s .tx ++ bs
  kept : ∀ i, (∀ k, k < bs.length → i ≠ slotOf (s.widx.tx + BitVec.ofNat 16 k) s.cap.tx) →
    t.memRead .tx i = s.memRead .tx i

/-- What `PUSH TX` does where there is room. -/
def pushTx (s : State) (b : Byte) : State :=
  (s.memWrite .tx (slotOf (s.widx.get .tx) (s.cap.get .tx)) b).setWidx .tx (inc16 (s.widx.get .tx))

namespace Appended

theorem cap {bs : List Byte} {s t : State} (h : Appended bs s t) : t.cap = s.cap := by rw [h.frame]

/-- The latches, the enable, the wake signal and the environment are no part of the ring. -/
theorem nothing (s : State) {x : PerChan Snapshot} {w : PerChan Wake} (b : Bool) (n : Nat) (cs : List EnvCall)
    (hx : x.rx = s.snap.rx) (hw : w.rx = s.wake.rx) :
    Appended [] s { s with snap := x, txie := b, wake := w, freeCtr := n, trace := cs } :=
  ⟨rfl, rfl, rfl, hx, hw, (BitVec.add_zero _).symm, rfl, fun _ => (List.append_nil _).symm, fun _ _ => rfl⟩

theorem refl (s : State) : Appended [] s s := .nothing s _ _ _ rfl rfl

theorem takeBytes (s : State) (len : Nat) : Appended [] s (s.takeBytes len).2 := .nothing s _ _ _ rfl rfl

theorem setWake (s : State) (v : Wake) : Appended [] s (s.setWake .tx v) := .nothing s _ _ _ rfl rfl

theorem trans {bs cs : List Byte} {s m t : State} (h : Appended bs s m) (k : Appended cs m t) :
    Appended (bs ++ cs) s t where
  frame := k.frame.trans (by rw [h.frame])
  storage_rx := k.storage_rx.trans h.storage_rx
  widx_rx := k.widx_rx.trans h.widx_rx
  snap_rx := k.snap_rx.trans h.snap_rx
  wake_rx := k.wake_rx.trans h.wake_rx
  widx_tx := by rw [k.widx_tx, h.widx_tx, BitVec.add_assoc, ← BitVec.ofNat_add, List.length_append]
  room := by rw [← h.room, ← k.room, List.length_append, Nat.add_right_comm, Nat.add_assoc]
  content := fun hlegal => by rw [k.content (h.cap ▸ hlegal), h.content hlegal, List.append_assoc]
  kept := fun i hi => by
    rw [List.length_append] at hi
    refine (k.kept i fun j hj => ?_).trans (h.kept i fun j hj => hi j (Nat.lt_add_right _ hj))
    rw [h.widx_tx, BitVec.add_assoc, ← BitVec.ofNat_add, h.cap]
    exact hi _ (Nat.add_lt_add_left hj _)

theorem push {s : State} (hroom : isFullNow s .tx = false) (b : Byte) : Appended [b] s (pushTx s b) where
  frame := rfl
  storage_rx := rfl
  widx_rx := rfl
  snap_rx := rfl
  wake_rx := rfl
  widx_tx := rfl
  room := roomOf_publish (ch := .tx) hroom
  content := fun hlegal => ringContent_pushed hlegal hroom b
  kept := fun i hi => by
    have hslot : i ≠ slotOf (s.widx.tx + 0#16) s.cap.tx := hi 0 Nat.one_pos
    rw [BitVec.add_zero] at hslot
    exact memRead_memWrite_other s .tx .tx _ i b fun heq => hslot (Prod.mk.inj heq).2

variable {bs : List Byte} {s t : State}

/-- The write counter has not gone round: there was room for the bytes. -/
theorem passed (h : Appended bs s t) : (t.widx.tx - s.widx.tx).toNat = bs.length := by
  have hlt := roomNow_lt s .tx
  have hroom := h.room
  rw [h.widx_tx, add_sub_cancel_left, ofNat_toNat_of_lt (by omega)]

theorem run (h : Appended bs s t) : t.run = s.run := by rw [h.frame]

theorem seq (h : Appended bs s t) : t.seq = s.seq := by rw [h.frame]

theorem responses (h : Appended bs s t) : t.responses = s.responses := by rw [h.frame]

theorem kept_outside_passed (h : Appended bs s t) (i : Nat)
    (hi : ∀ k, k < (t.widx.tx - s.widx.tx).toNat → i ≠ slotOf (s.widx.tx + BitVec.ofNat 16 k) s.cap.tx) :
    t.memRead .tx i = s.memRead .tx i :=
  h.kept i fun k hk => hi k (h.passed ▸ hk)

/-- The ring is filled at most to its capacity. -/
theorem usedNow_le (h : Appended bs s t) (hring : ringOk s .tx = true) : usedNow t .tx ≤ s.cap.tx.toNat := by
  obtain ⟨hlegal, hused⟩ := Bool.and_eq_true_iff.1 hring
  have hle : usedNow s .tx ≤ s.cap.tx.toNat := of_decide_eq_true hused
  have hroom : roomNow t .tx + bs.length = s.cap.tx.toNat - usedNow s .tx := h.room
  rw [← ringContent_length, h.content hlegal, List.length_append, ringContent_length]
  omega

end Appended

/-! ### `WRNB` -/

/-- The loop of `WRNB` appends what there is room for: it goes on while the ring is not full. -/
theorem wrnbLoop_appended (a : Agent) (bs : List Byte) (n : Nat) (s : State) :
    ∃ t, wrnbLoop a bs n s = .reply t (Reply.okVal (BitVec.ofNat 16 (n + min bs.length (roomNow s .tx)))) ∧
      Appended (bs.take (roomNow s .tx)) s t ∧ t = { s with storage := t.storage, widx := t.widx } := by
  induction bs generalizing n s with
  | nil =>
    rw [List.length_nil, Nat.zero_min, List.take_nil]
    exact ⟨s, rfl, .refl s, rfl⟩
  | cons b bs ih =>
    rw [wrnbLoop, queryOp, andThen_reply]
    split
    · next hvalue =>
      have hzero : roomNow s .tx = 0 := (isFullNow_iff_roomOf s .tx).1 ((queryReply_full_value ..).1 hvalue)
      rw [hzero, Nat.min_zero, List.take_zero]
      exact ⟨s, rfl, .refl s, rfl⟩
    · next hvalue =>
      have hroom : isFullNow s .tx = false := by
        rw [← Bool.not_eq_true]
        exact fun hfull => hvalue ((queryReply_full_value ..).2 hfull)
      have hpush := Appended.push hroom b
      obtain ⟨t, hloop, ht, hframe⟩ := ih (n + 1) (pushTx s b)
      have hcount : n + min (b :: bs).length (roomNow s .tx) = n + 1 + min bs.length (roomNow (pushTx s b) .tx) := by
        rw [← hpush.room, List.length_cons, List.length_singleton, Nat.add_min_add_right, Nat.add_right_comm,
          Nat.add_assoc]
      rw [pushOp_of_room .tx b a s hroom, andThen_reply, hcount, ← hpush.room, List.length_singleton,
        List.take_succ_cons]
      exact ⟨t, hloop, hpush.trans ht, hframe⟩

/-- `WRNB` with the caller's `bytes` took `s` to `t`: it appended what there was room for, latched the counters it
found, and enabled where the ring was empty and is not. -/
structure WrnbDone (bytes : List Byte) (s t : State) : Prop extends Appended (bytes.take (roomNow s .tx)) s t where
  snap_tx : t.snap.tx = ⟨s.widx.tx, s.ridx.tx⟩
  wake : t.wake = s.wake
  dev : t.dev = s.dev
  txie : t.txie = (s.txie || decide (usedNow s .tx = 0 ∧ min bytes.length (roomNow s .tx) ≠ 0))
  sent : sentBytes t.trace = sentBytes s.trace

/-- The test of `FC.TXT` on the counters a `WRNB` latched first. -/
theorem Appended.enables_iff {bs : List Byte} {s t : State} (h : Appended bs s t)
    (hsnap : t.snap.tx = ⟨s.widx.tx, s.ridx.tx⟩) :
    fcTxtDecides t t.widx.tx t.ridx.tx = true ↔ usedNow s .tx = 0 ∧ bs.length ≠ 0 := by
  have hridx : t.ridx = s.ridx := by rw [h.frame]
  have hempty : usedNow s .tx = 0 ↔ s.widx.tx = s.ridx.tx := (isEmptyNow_iff s .tx).symm.trans (emptyAt_iff ..)
  have hpassed : bs.length ≠ 0 ↔ t.widx.tx ≠ s.widx.tx := by
    rw [← h.passed]
    bv_omega
  rw [fcTxtDecides_iff, hsnap, hridx, hempty, hpassed]
  dsimp only
  rw [or_iff_left (not_not_intro rfl), and_comm]
  exact and_congr_right fun heq => by rw [heq]

theorem fcTxtState_sent (s : State) : sentBytes (fcTxtState s).trace = sentBytes s.trace := by
  rw [fcTxtState]
  split <;> rfl

theorem wrnbOp_done (a : Agent) (bytes : List Byte) (s : State) :
    ∃ t, wrnbOp bytes a s = .reply t (wrnbReply (!bytes.isEmpty) (min bytes.length (roomNow s .tx))) ∧
      WrnbDone bytes s t := by
  have hlatched : Appended [] s ((s.latchW .tx).latchR .tx) := latch_both s .tx ▸ .nothing s _ _ _ rfl rfl
  obtain ⟨m, hloop, hm, hframe⟩ := wrnbLoop_appended a bytes 0 ((s.latchW .tx).latchR .tx)
  have happended : Appended (bytes.take (roomNow s .tx)) s m := hlatched.trans hm
  have hpolicy : Appended [] m (fcTxtState m) := fcTxtState_frame m ▸ .nothing m _ _ _ rfl rfl
  have hsnap : m.snap.tx = ⟨s.widx.tx, s.ridx.tx⟩ := by rw [hframe]; rfl
  refine ⟨fcTxtState m, ?_, ?_⟩
  · have hcount := ofNat_toNat_of_lt ((Nat.min_le_right bytes.length _).trans_lt (roomNow_lt s .tx))
    rw [wrnbOp, snapOp, andThen_reply, hloop, Nat.zero_add]
    exact congrArg (fun n => Result.reply (fcTxtState m) (wrnbReply _ n)) hcount
  · refine { toAppended := ?_, snap_tx := ?_, wake := ?_, dev := ?_, txie := ?_, sent := ?_ }
    · exact List.append_nil (bytes.take _) ▸ happended.trans hpolicy
    · rw [fcTxtState_frame]
      exact hsnap
    · rw [fcTxtState_frame, hframe]
      rfl
    · rw [fcTxtState_frame, hframe]
      rfl
    · have henables := (happended.enables_iff hsnap).trans decide_eq_true_iff.symm
      have htxie : m.txie = s.txie := by rw [hframe]; rfl
      rw [fcTxtState_txie, Bool.eq_iff_iff.2 henables, htxie, Bool.or_comm, List.length_take, Nat.min_comm]
    · rw [fcTxtState_sent, hframe]
      rfl

/-! ### `WRITE` -/

section Wait

variable {s : State} {ch : Chan} (cs : List Caller)

theorem waitOp_of_raised (h : s.wake.get ch = .raised) : waitOp ch cs s = .reply (s.setWake ch .idle) Reply.ok0 := by
  rw [waitOp, h]

theorem waitOp_of_idle (h : s.wake.get ch = .idle) :
    waitOp ch cs s = .inProgress (s.setWake ch .parked) .parked (.wait2 ch) cs := by
  rw [waitOp, h]

theorem waitOp_of_parked (h : s.wake.get ch = .parked) : waitOp ch cs s = .stuck .secondWaiter := by
  rw [waitOp, h]

end Wait

/-- One pass of `WRITE` with bytes left to write: nothing fits and it waits, all fits and it answers, or it goes on with
what does not fit. -/
theorem writeLoop_pass (a : Agent) (len : Nat) {rest : List Byte} (hrest : rest ≠ []) (s : State) :
    ∃ t, WrnbDone rest s t ∧ ∀ fuel, writeLoop a len (fuel + 1) rest s =
      if min rest.length (roomNow s .tx) = 0 then
        (waitOp .tx [.writeWait len rest] t).andThen fun u _ => writeLoop a len fuel rest u
      else if rest.drop (min rest.length (roomNow s .tx)) = [] then .reply t (Reply.okVal (BitVec.ofNat 16 len))
      else writeLoop a len fuel (rest.drop (min rest.length (roomNow s .tx))) t := by
  obtain ⟨t, hreply, ht⟩ := wrnbOp_done a rest s
  have hcount := ofNat_toNat_of_lt ((Nat.min_le_right rest.length _).trans_lt (roomNow_lt s .tx))
  have hwanted : (!rest.isEmpty) = true := by rw [Bool.not_eq_true', List.isEmpty_eq_false_iff]; exact hrest
  refine ⟨t, ht, fun fuel => ?_⟩
  rw [writeLoop, hreply, andThen_reply]
  by_cases hzero : min rest.length (roomNow s .tx) = 0
  · rw [if_pos ((wrnbReply_status ..).2 ⟨hzero, hwanted⟩), if_pos hzero]
  · rw [if_neg fun h => hzero ((wrnbReply_status ..).1 h).1, if_neg hzero, wrnbReply_of_ne_zero _ hzero, Reply.okVal,
      hcount]

section Full

variable (a : Agent) (len : Nat) {rest : List Byte} {s : State} (hrest : rest ≠ []) (hfull : roomNow s .tx = 0)
include hrest hfull

/-- A pass on a full ring writes nothing and waits. -/
theorem writeLoop_waits : ∃ t, Appended [] s t ∧ t.wake = s.wake ∧ ∀ fuel, writeLoop a len (fuel + 1) rest s =
    (waitOp .tx [.writeWait len rest] t).andThen fun u _ => writeLoop a len fuel rest u := by
  obtain ⟨t, ht, hpass⟩ := writeLoop_pass a len hrest s
  refine ⟨t, ?_, ht.wake, fun fuel => ?_⟩
  · have happended := ht.toAppended
    rwa [hfull, List.take_zero] at happended
  · rw [hpass fuel, hfull, Nat.min_zero, if_pos rfl]

theorem writeLoop_of_parked (fuel : Nat) (hwake : s.wake.tx = .parked) :
    writeLoop a len (fuel + 1) rest s = .stuck .secondWaiter := by
  obtain ⟨t, -, hsame, hpass⟩ := writeLoop_waits a len hrest hfull
  rw [hpass fuel, waitOp_of_parked _ (ch := .tx) (hsame ▸ hwake)]
  rfl

theorem writeLoop_of_idle (fuel : Nat) (hwake : s.wake.tx = .idle) :
    ∃ t, writeLoop a len (fuel + 1) rest s = .inProgress t .parked (.wait2 .tx) [.writeWait len rest] ∧
      Appended [] s t ∧ t.wake = s.wake.set .tx .parked := by
  obtain ⟨t, ht, hsame, hpass⟩ := writeLoop_waits a len hrest hfull
  refine ⟨t.setWake .tx .parked, ?_, ht.trans (.setWake t .parked), ?_⟩
  · rw [hpass fuel, waitOp_of_idle _ (ch := .tx) (hsame ▸ hwake)]
    rfl
  · rw [← hsame]
    rfl

/-- A raised signal is consumed first, and the pass after it finds the signal idle. -/
theorem writeLoop_of_not_parked (fuel : Nat) (hwake : s.wake.tx ≠ .parked) :
    ∃ t, writeLoop a len (fuel + 2) rest s = .inProgress t .parked (.wait2 .tx) [.writeWait len rest] ∧
      Appended [] s t ∧ t.wake = s.wake.set .tx .parked := by
  cases hw : s.wake.tx with
  | parked => exact absurd hw hwake
  | idle => exact writeLoop_of_idle a len hrest hfull (fuel + 1) hw
  | raised =>
    obtain ⟨m, hm, hsame, hpass⟩ := writeLoop_waits a len hrest hfull
    have hconsumed : Appended [] s (m.setWake .tx .idle) := hm.trans (.setWake m .idle)
    obtain ⟨t, hloop, ht, hparked⟩ := writeLoop_of_idle a len hrest (hconsumed.room.trans hfull) fuel rfl
    refine ⟨t, ?_, hconsumed.trans ht, ?_⟩
    · rw [hpass (fuel + 1), waitOp_of_raised _ (ch := .tx) (hsame ▸ hw), andThen_reply, hloop]
    · rw [hparked, ← hsame]
      rfl

end Full

section Write

variable (a : Agent) (len : Nat) {bytes : List Byte} {s : State}

/-- `WRITE` of bytes for which there is room. -/
theorem writeOp_of_room (hroom : bytes.length ≤ roomNow s .tx) :
    ∃ t, writeOp len bytes a s = .reply t (Reply.okVal (BitVec.ofNat 16 len)) ∧ Appended bytes s t ∧
      t.wake = s.wake := by
  by_cases hbytes : bytes = []
  · subst hbytes
    exact ⟨s, if_pos rfl, .refl s, rfl⟩
  · obtain ⟨t, ht, hpass⟩ := writeLoop_pass a len hbytes s
    have happended := ht.toAppended
    have hsome : bytes.length ≠ 0 := mt List.eq_nil_of_length_eq_zero hbytes
    rw [List.take_of_length_le hroom] at happended
    refine ⟨t, ?_, happended, ht.wake⟩
    rw [writeOp, if_neg hbytes, hpass 2, Nat.min_eq_left hroom, if_neg hsome, List.drop_length, if_pos rfl]

/-- `WRITE` of more bytes than there is room for fills the ring, unless it is full already, and goes on with the
rest. -/
theorem writeOp_fills (hroom : roomNow s .tx < bytes.length) :
    ∃ m fuel, writeOp len bytes a s = writeLoop a len (fuel + 2) (bytes.drop (roomNow s .tx)) m ∧
      Appended (bytes.take (roomNow s .tx)) s m ∧ m.wake = s.wake ∧ roomNow m .tx = 0 := by
  have hbytes : bytes ≠ [] := List.ne_nil_of_length_pos (Nat.zero_lt_of_lt hroom)
  rw [writeOp, if_neg hbytes]
  by_cases hfull : roomNow s .tx = 0
  · rw [hfull]
    exact ⟨s, 1, rfl, .refl s, rfl, hfull⟩
  · obtain ⟨t, ht, hpass⟩ := writeLoop_pass a len hbytes s
    have hrest : bytes.drop (roomNow s .tx) ≠ [] := mt List.drop_eq_nil_iff.1 hroom.not_ge
    have hlevel := ht.room
    rw [List.length_take_of_le hroom.le] at hlevel
    refine ⟨t, 0, ?_, ht.toAppended, ht.wake, Nat.add_eq_right.1 hlevel⟩
    rw [hpass 2, Nat.min_eq_right hroom.le, if_neg hfull, if_neg hrest]

theorem writeOp_of_parked (hroom : roomNow s .tx < bytes.length) (hwake : s.wake.tx = .parked) :
    writeOp len bytes a s = .stuck .secondWaiter := by
  obtain ⟨m, fuel, hloop, -, hsame, hfull⟩ := writeOp_fills a len hroom
  rw [hloop]
  exact writeLoop_of_parked a len (mt List.drop_eq_nil_iff.1 hroom.not_ge) hfull _ (hsame ▸ hwake)

theorem writeOp_of_not_parked (hroom : roomNow s .tx < bytes.length) (hwake : s.wake.tx ≠ .parked) :
    ∃ t, writeOp len bytes a s =
        .inProgress t .parked (.wait2 .tx) [.writeWait len (bytes.drop (roomNow s .tx))] ∧
      Appended (bytes.take (roomNow s .tx)) s t ∧ t.wake = s.wake.set .tx .parked := by
  obtain ⟨m, fuel, hloop, hm, hsame, hfull⟩ := writeOp_fills a len hroom
  obtain ⟨t, hparks, ht, hparked⟩ :=
    writeLoop_of_not_parked a len (mt List.drop_eq_nil_iff.1 hroom.not_ge) hfull fuel (hsame ▸ hwake)
  exact ⟨t, hloop.trans hparks, List.append_nil (bytes.take _) ▸ hm.trans ht, hsame ▸ hparked⟩

end Write

/-! ### The commands -/

/-- A thread parked in `WAIT.2` inside the composites `cs`. -/
def parkedIn (s : State) (a : Agent) (ch : Chan) (cs : List Caller) : State :=
  (s.setSeq a (some ⟨.wait2 ch, cs⟩)).setRun a .parked

theorem parkedIn_run (s : State) (a : Agent) (ch : Chan) (cs : List Caller) :
    (parkedIn s a ch cs).run = s.run.set a .parked := rfl

theorem parkedIn_seq (s : State) (a : Agent) (ch : Chan) (cs : List Caller) :
    (parkedIn s a ch cs).seq = s.seq.set a (some ⟨.wait2 ch, cs⟩) := rfl

/-- From `m` to `t` an operation of agent `a` has answered or is left waiting: it wrote the agent's own entries only. -/
structure LeftBy (a : Agent) (m t : State) : Prop where
  frame : t = { m with run := t.run, seq := t.seq, responses := t.responses }
  others : ∀ b, b ≠ a → t.run.get b = m.run.get b ∧ t.seq.get b = m.seq.get b

theorem LeftBy.answered (a : Agent) (m : State) (b : Agent) (r : Reply) : LeftBy a m (m.respond b r) :=
  ⟨rfl, fun _ _ => ⟨rfl, rfl⟩⟩

theorem LeftBy.parked (a : Agent) (m : State) (ch : Chan) (cs : List Caller) : LeftBy a m (parkedIn m a ch cs) :=
  ⟨rfl, fun _ hb => ⟨PerAgent.get_set_ne _ _ _ _ hb, PerAgent.get_set_ne _ _ _ _ hb⟩⟩

section Commands

variable {s : State} {len : Nat}

/-- `WRNB` always answers. -/
theorem exec_wrnb (hready : ready (.wrnb len) s) :
    ∃ t, exec (.wrnb len) s = .next (t.respond s.issuer (wrnbReply (decide (0 < len)) (min len (roomNow s .tx)))) ∧
      WrnbDone (callerBytes s.freeCtr len s.payload) s t := by
  obtain ⟨t, hreply, ht⟩ := wrnbOp_done s.issuer (s.takeBytes len).1 (s.takeBytes len).2
  have hlen : (s.takeBytes len).1.length = len := callerBytes_length ..
  have hwanted : (!(s.takeBytes len).1.isEmpty) = decide (0 < len) := callerBytes_isEmpty ..
  rw [hlen, hwanted] at hreply
  refine ⟨t, exec_of_reply (i := .wrnb len) hready hreply, ?_⟩
  exact { ht with toAppended := (Appended.takeBytes s len).trans ht.toAppended }

/-- Every next state of `WRNB`. -/
theorem exec_wrnb_next {t : State} (h : exec (.wrnb len) s = .next t) :
    ∃ bs m r, Appended bs s m ∧ m.wake = s.wake ∧ t = m.respond s.issuer r := by
  rcases exec_answered_or_ready h with ⟨r, ht⟩ | ⟨hready, -⟩
  · exact ⟨[], s, r, .refl s, rfl, ht⟩
  · obtain ⟨m, hexec, hm⟩ := exec_wrnb hready
    rw [h] at hexec
    cases hexec
    exact ⟨_, m, _, hm.toAppended, hm.wake, rfl⟩

theorem txt_of_ready_write (hready : ready (.write len) s) : s.issuer = .txt := beq_iff_eq.1 hready.1

section Ready

variable (hready : ready (.write len) s)
include hready

theorem exec_write_of_ready : exec (.write len) s =
    complete .txt (writeOp len (callerBytes s.freeCtr len s.payload) .txt (s.takeBytes len).2) := by
  rw [exec_of_ready hready, txt_of_ready_write hready]
  rfl

theorem exec_write_of_room (hroom : len ≤ roomNow s .tx) :
    ∃ t, exec (.write len) s = .next (t.respond .txt (Reply.okVal (BitVec.ofNat 16 len))) ∧
      Appended (callerBytes s.freeCtr len s.payload) s t ∧ t.wake = s.wake := by
  obtain ⟨t, hreply, ht, hwake⟩ := writeOp_of_room (s := (s.takeBytes len).2) .txt len
    ((callerBytes_length s.freeCtr len s.payload).trans_le hroom)
  exact ⟨t, (exec_write_of_ready hready).trans (congrArg (complete .txt) hreply),
    (Appended.takeBytes s len).trans ht, hwake⟩

theorem exec_write_of_parked (hroom : roomNow s .tx < len) (hwake : s.wake.tx = .parked) :
    exec (.write len) s = .fault .secondWaiter := by
  have hstuck := writeOp_of_parked (s := (s.takeBytes len).2) .txt len
    (hroom.trans_eq (callerBytes_length s.freeCtr len s.payload).symm) hwake
  exact (exec_write_of_ready hready).trans (congrArg (complete .txt) hstuck)

theorem exec_write_of_not_parked (hroom : roomNow s .tx < len) (hwake : s.wake.tx ≠ .parked) :
    ∃ t, exec (.write len) s = .next (parkedIn t .txt .tx
        [.writeWait len ((callerBytes s.freeCtr len s.payload).drop (roomNow s .tx))]) ∧
      Appended ((callerBytes s.freeCtr len s.payload).take (roomNow s .tx)) s t ∧
      t.wake = s.wake.set .tx .parked := by
  obtain ⟨t, hparks, ht, hparked⟩ := writeOp_of_not_parked (s := (s.takeBytes len).2) .txt len
    (hroom.trans_eq (callerBytes_length s.freeCtr len s.payload).symm) hwake
  exact ⟨t, (exec_write_of_ready hready).trans (congrArg (complete .txt) hparks),
    (Appended.takeBytes s len).trans ht, hparked⟩

end Ready

/-- Every next state of `WRITE`: answered, by R96 or by its own rule, or parked. -/
theorem exec_write_next {t : State} (h : exec (.write len) s = .next t) :
    ∃ bs m, Appended bs s m ∧ LeftBy .txt m t := by
  rcases exec_answered_or_ready h with ⟨r, rfl⟩ | ⟨hready, -⟩
  · exact ⟨[], s, .refl s, .answered ..⟩
  · rcases le_or_gt len (roomNow s .tx) with hroom | hroom
    · obtain ⟨m, hexec, hm, -⟩ := exec_write_of_room hready hroom
      rw [h] at hexec
      cases hexec
      exact ⟨_, m, hm, .answered ..⟩
    · by_cases hwake : s.wake.tx = .parked
      · rw [exec_write_of_parked hready hroom hwake] at h
        cases h
      · obtain ⟨m, hexec, hm, -⟩ := exec_write_of_not_parked hready hroom hwake
        rw [h] at hexec
        cases hexec
        exact ⟨_, m, hm, .parked ..⟩

end Commands

end Sys2Proof.Machine
end

section
/-! SUPPORT. The reading thread calls as whole operations (43_thread_api.md R212, R213): the bytes they take from the RX
ring, their answers, and what they leave as it was. -/

namespace Sys2Proof.Machine

/-! ### Responses -/

theorem rdnbReply_status (wanted : Bool) (buf : List Byte) :
    (rdnbReply wanted buf).status = .wouldBlock ↔ buf = [] ∧ wanted := by
  rw [rdnbReply]
  split
  · next h => exact iff_of_true rfl h
  · next h => exact iff_of_false nofun h

theorem respond_okData (s : State) (a : Agent) {buf : List Byte} (hlen : buf.length < 65536) :
    (s.respond a (Reply.okData buf)).responses = ⟨a, BitVec.ofNat 32 buf.length, buf⟩ :: s.responses := by
  rw [State.respond_responses, ← okVal_count_word hlen]
  rfl

theorem respond_rdnbReply (s : State) (a : Agent) (wanted : Bool) {buf : List Byte} (hlen : buf.length < 65536) :
    (s.respond a (rdnbReply wanted buf)).responses =
      ⟨a, if buf.length = 0 ∧ wanted then 0x10000000 else BitVec.ofNat 32 buf.length, buf⟩ :: s.responses := by
  rw [rdnbReply]
  by_cases hempty : buf = [] ∧ wanted = true
  · obtain ⟨rfl, hwanted⟩ := hempty
    rw [if_pos ⟨rfl, hwanted⟩, if_pos ⟨rfl, hwanted⟩, State.respond_responses, wouldBlock_word]
    rfl
  · rw [if_neg hempty, if_neg (mt (And.imp_left List.eq_nil_of_length_eq_zero) hempty), respond_okData s a hlen]

/-- A byte that `POP` or `PEEK` answers, as its caller reads it. -/
theorem okVal_byte (b : Byte) : (Reply.okVal (b.setWidth 16)).value.setWidth 8 = b := by simp [Reply.okVal]

/-! ### Bytes taken from the RX ring -/

theorem length_take_ringContent (s : State) (ch : Chan) (n : Nat) :
    ((ringContent s ch).take n).length = min n (usedNow s ch) := by
  rw [List.length_take, ringContent_length]

theorem length_take_ringContent_lt (s : State) (ch : Chan) (n : Nat) :
    ((ringContent s ch).take n).length < 65536 := by
  rw [length_take_ringContent]
  exact (Nat.min_le_right ..).trans_lt (usedOf (s.widx.get ch) (s.ridx.get ch)).isLt

theorem take_min_ringContent (s : State) (ch : Chan) (n : Nat) :
    (ringContent s ch).take (min n (usedNow s ch)) = (ringContent s ch).take n := by
  rw [← ringContent_length, ← List.take_eq_take_min]

/-- From `s` to `t` the `n` oldest bytes left the RX ring, and of the rest only what `RDNB`, `READ` and `WAIT` may write
has changed. -/
structure Consumed (n : Nat) (s t : State) : Prop where
  frame : t = { s with ridx := t.ridx, snap := t.snap, rxie := t.rxie, wake := t.wake, trace := t.trace }
  ridx_tx : t.ridx.tx = s.ridx.tx
  snap_tx : t.snap.tx = s.snap.tx
  wake_tx : t.wake.tx = s.wake.tx
  ridx_rx : t.ridx.rx = s.ridx.rx + BitVec.ofNat 16 n
  content : ringContent t .rx = (ringContent s .rx).drop n

/-- The oldest byte of the RX ring. -/
def oldestRx (s : State) : Byte := s.memRead .rx (slotOf (s.ridx.get .rx) (s.cap.get .rx))

/-- What `POP RX` does where there is data. -/
def popRx (s : State) : State := s.setRidx .rx (inc16 (s.ridx.get .rx))

namespace Consumed

/-- The latches, the enable, the wake signal and the environment are no part of the ring. -/
theorem nothing (s : State) {x : PerChan Snapshot} {w : PerChan Wake} (b : Bool) (cs : List EnvCall)
    (hx : x.tx = s.snap.tx) (hw : w.tx = s.wake.tx) :
    Consumed 0 s { s with snap := x, rxie := b, wake := w, trace := cs } :=
  ⟨rfl, rfl, hx, hw, (BitVec.add_zero _).symm, rfl⟩

theorem refl (s : State) : Consumed 0 s s := .nothing s _ _ rfl rfl

theorem setWake (s : State) (v : Wake) : Consumed 0 s (s.setWake .rx v) := .nothing s _ _ rfl rfl

theorem trans {n k : Nat} {s m t : State} (h : Consumed n s m) (h' : Consumed k m t) : Consumed (n + k) s t where
  frame := h'.frame.trans (by rw [h.frame])
  ridx_tx := h'.ridx_tx.trans h.ridx_tx
  snap_tx := h'.snap_tx.trans h.snap_tx
  wake_tx := h'.wake_tx.trans h.wake_tx
  ridx_rx := by rw [h'.ridx_rx, h.ridx_rx, BitVec.add_assoc, ← BitVec.ofNat_add]
  content := by rw [h'.content, h.content, List.drop_drop]

/-- `POP RX` with data. -/
theorem pop {s : State} (hdata : isEmptyNow s .rx = false) : Consumed 1 s (popRx s) where
  frame := rfl
  ridx_tx := rfl
  snap_tx := rfl
  wake_tx := rfl
  ridx_rx := rfl
  content := by
    rw [ringContent_consume hdata]
    rfl

variable {n : Nat} {s t : State}

theorem run (h : Consumed n s t) : t.run = s.run := by rw [h.frame]

theorem seq (h : Consumed n s t) : t.seq = s.seq := by rw [h.frame]

theorem responses (h : Consumed n s t) : t.responses = s.responses := by rw [h.frame]

theorem ridx_of_zero (h : Consumed 0 s t) : t.ridx = s.ridx :=
  congrArg₂ PerChan.mk (h.ridx_rx.trans (BitVec.add_zero _)) h.ridx_tx

theorem storage (h : Consumed n s t) : t.storage = s.storage := by rw [h.frame]

theorem usedNow_eq (h : Consumed n s t) : usedNow t .rx = usedNow s .rx - n := by
  rw [← ringContent_length, h.content, List.length_drop, ringContent_length]

end Consumed

/-! ### `RDNB` -/

/-- The loop of `RDNB` takes the oldest bytes in order: it goes on while the ring is not empty. -/
theorem rdnbLoop_consumed (a : Agent) (more : Nat) (buf : List Byte) (s : State) :
    ∃ t, rdnbLoop a more buf s = .reply t (Reply.okData (buf ++ (ringContent s .rx).take more)) ∧
      Consumed (min more (usedNow s .rx)) s t ∧ t = { s with ridx := t.ridx } := by
  induction more generalizing buf s with
  | zero =>
    rw [Nat.zero_min, List.take_zero, List.append_nil]
    exact ⟨s, rfl, .refl s, rfl⟩
  | succ more ih =>
    rw [rdnbLoop, queryOp, andThen_reply]
    split
    · next hvalue =>
      have hzero : usedNow s .rx = 0 := (isEmptyNow_iff s .rx).1 ((queryReply_empty_value ..).1 hvalue)
      rw [List.eq_nil_of_length_eq_zero ((ringContent_length s .rx).trans hzero), hzero, Nat.min_zero, List.take_nil,
        List.append_nil]
      exact ⟨s, rfl, .refl s, rfl⟩
    · next hvalue =>
      have hdata : isEmptyNow s .rx = false := by
        rw [← Bool.not_eq_true]
        exact fun hempty => hvalue ((queryReply_empty_value ..).2 hempty)
      have hcontent : ringContent s .rx = oldestRx s :: ringContent (popRx s) .rx := ringContent_consume hdata
      have hlevel : usedNow s .rx = usedNow (popRx s) .rx + 1 := by
        rw [← ringContent_length s .rx, hcontent, List.length_cons, ringContent_length]
      obtain ⟨t, hloop, ht, hframe⟩ := ih (buf ++ [oldestRx s]) (popRx s)
      rw [popOp_of_data .rx a s hdata, andThen_reply, ← oldestRx, okVal_byte, hcontent, hlevel, List.take_succ_cons,
        Nat.add_min_add_right, Nat.add_comm _ 1]
      rw [List.append_assoc, List.singleton_append] at hloop
      exact ⟨t, hloop, (Consumed.pop hdata).trans ht, hframe⟩

/-- `RDNB` took `s` to `t`: it took as many bytes as there were up to `len`, latched the counters it found, and enabled
where the ring was full and is not. -/
structure RdnbDone (len : Nat) (s t : State) : Prop extends Consumed (min len (usedNow s .rx)) s t where
  snap_rx : t.snap.rx = ⟨s.widx.rx, s.ridx.rx⟩
  wake : t.wake = s.wake
  rxie : t.rxie = (s.rxie || decide (s.cap.rx.toNat ≤ usedNow s .rx ∧
    usedNow s .rx - min len (usedNow s .rx) < s.cap.rx.toNat))

/-- The test of `FC.RXT` on the counters an `RDNB` latched first. -/
theorem Consumed.enables_iff {n : Nat} {s t : State} (h : Consumed n s t)
    (hsnap : t.snap.rx = ⟨s.widx.rx, s.ridx.rx⟩) :
    fcRxtDecides t t.widx.rx t.ridx.rx = true ↔
      s.cap.rx.toNat ≤ usedNow s .rx ∧ usedNow s .rx - n < s.cap.rx.toNat := by
  have hwidx : t.widx = s.widx := by rw [h.frame]
  have hcap : t.cap = s.cap := by rw [h.frame]
  have hlevel : (s.widx.rx - t.ridx.rx).toNat = usedNow s .rx - n := hwidx ▸ h.usedNow_eq
  have hfull : (s.widx.rx - s.ridx.rx).toNat = usedNow s .rx := rfl
  rw [fcRxtDecides_iff, hsnap, hwidx, hcap, hlevel, and_comm]
  dsimp only
  rw [hfull, or_iff_left (not_not_intro rfl)]

/-- `RDNB` as a part always answers. -/
theorem rdnbOp_done (a : Agent) (len : Nat) (s : State) :
    ∃ t, rdnbOp len a s = .reply t (rdnbReply (decide (0 < len)) ((ringContent s .rx).take len)) ∧
      RdnbDone len s t := by
  have hlatched : Consumed 0 s ((s.latchW .rx).latchR .rx) := latch_both s .rx ▸ .nothing s _ _ rfl rfl
  obtain ⟨m, hloop, hm, hframe⟩ := rdnbLoop_consumed a len [] ((s.latchW .rx).latchR .rx)
  have hconsumed : Consumed (min len (usedNow s .rx)) s m := Nat.zero_add (min len _) ▸ hlatched.trans hm
  have hpolicy : Consumed 0 m (fcRxtState m) := fcRxtState_frame m ▸ .nothing m _ _ rfl rfl
  have hsnap : m.snap.rx = ⟨s.widx.rx, s.ridx.rx⟩ := by rw [hframe]; rfl
  refine ⟨fcRxtState m, ?_, ?_⟩
  · rw [rdnbOp, snapOp, andThen_reply, hloop]
    rfl
  · refine { toConsumed := hconsumed.trans hpolicy, snap_rx := ?_, wake := ?_, rxie := ?_ }
    · rw [fcRxtState_frame]
      exact hsnap
    · rw [fcRxtState_frame, hframe]
      rfl
    · have henables := (hconsumed.enables_iff hsnap).trans decide_eq_true_iff.symm
      have hrxie : m.rxie = s.rxie := by rw [hframe]; rfl
      rw [fcRxtState_rxie, Bool.eq_iff_iff.2 henables, hrxie, Bool.or_comm]

/-! ### `READ` -/

section Empty

variable (a : Agent) {len : Nat} {s : State} (hlen : len ≠ 0) (hempty : usedNow s .rx = 0)
include hlen hempty

/-- A pass of `READ` on an empty ring takes nothing and waits. -/
theorem readLoop_waits : ∃ t, Consumed 0 s t ∧ t.wake = s.wake ∧ ∀ fuel, readLoop a len (fuel + 1) s =
    (waitOp .rx [.readWait len] t).andThen fun u _ => readLoop a len fuel u := by
  obtain ⟨t, hreply, ht⟩ := rdnbOp_done a len s
  have hnothing : (ringContent s .rx).take len = [] := by
    rw [List.eq_nil_of_length_eq_zero ((ringContent_length s .rx).trans hempty), List.take_nil]
  have hconsumed := ht.toConsumed
  rw [hempty, Nat.min_zero] at hconsumed
  refine ⟨t, hconsumed, ht.wake, fun fuel => ?_⟩
  rw [readLoop, hreply, andThen_reply, if_pos]
  exact (rdnbReply_status ..).2 ⟨hnothing, decide_eq_true (Nat.pos_of_ne_zero hlen)⟩

theorem readOp_of_parked (hwake : s.wake.rx = .parked) : readOp len a s = .stuck .secondWaiter := by
  obtain ⟨t, -, hsame, hpass⟩ := readLoop_waits a hlen hempty
  rw [readOp, hpass 1, waitOp_of_parked _ (ch := .rx) (hsame ▸ hwake)]
  rfl

theorem readLoop_of_idle (fuel : Nat) (hwake : s.wake.rx = .idle) :
    ∃ t, readLoop a len (fuel + 1) s = .inProgress t .parked (.wait2 .rx) [.readWait len] ∧ Consumed 0 s t ∧
      t.wake = s.wake.set .rx .parked := by
  obtain ⟨t, ht, hsame, hpass⟩ := readLoop_waits a hlen hempty
  refine ⟨t.setWake .rx .parked, ?_, ht.trans (.setWake t .parked), ?_⟩
  · rw [hpass fuel, waitOp_of_idle _ (ch := .rx) (hsame ▸ hwake)]
    rfl
  · rw [← hsame]
    rfl

/-- A raised signal is consumed first, and the pass after it finds the signal idle. -/
theorem readOp_of_not_parked (hwake : s.wake.rx ≠ .parked) :
    ∃ t, readOp len a s = .inProgress t .parked (.wait2 .rx) [.readWait len] ∧ Consumed 0 s t ∧
      t.wake = s.wake.set .rx .parked := by
  cases hw : s.wake.rx with
  | parked => exact absurd hw hwake
  | idle => exact readLoop_of_idle a hlen hempty 1 hw
  | raised =>
    obtain ⟨m, hm, hsame, hpass⟩ := readLoop_waits a hlen hempty
    have htaken : Consumed 0 s (m.setWake .rx .idle) := hm.trans (.setWake m .idle)
    obtain ⟨t, hloop, ht, hparked⟩ := readLoop_of_idle a hlen (htaken.usedNow_eq.trans hempty) 0 rfl
    refine ⟨t, ?_, htaken.trans ht, ?_⟩
    · rw [readOp, hpass 1, waitOp_of_raised _ (ch := .rx) (hsame ▸ hw), andThen_reply, hloop]
    · rw [hparked, ← hsame]
      rfl

end Empty

/-- `READ` of nothing, or with data in the ring. -/
theorem readOp_of_data (a : Agent) {len : Nat} {s : State} (hdata : len = 0 ∨ usedNow s .rx ≠ 0) :
    ∃ t, readOp len a s = .reply t (Reply.okData ((ringContent s .rx).take len)) ∧
      Consumed (min len (usedNow s .rx)) s t ∧ t.wake = s.wake := by
  obtain ⟨t, hreply, ht⟩ := rdnbOp_done a len s
  have hanswers : ¬((ringContent s .rx).take len = [] ∧ decide (0 < len) = true) := by
    rw [List.take_eq_nil_iff, ← List.length_eq_zero_iff, ringContent_length, decide_eq_true_iff]
    omega
  refine ⟨t, ?_, ht.toConsumed, ht.wake⟩
  rw [readOp, readLoop, hreply, andThen_reply, if_neg (mt (rdnbReply_status ..).1 hanswers), rdnbReply, if_neg hanswers]

/-! ### The commands -/

section Commands

variable {s : State} {len : Nat}

/-- `RDNB` always answers. -/
theorem exec_rdnb (hready : ready (.rdnb len) s) :
    ∃ t, exec (.rdnb len) s =
        .next (t.respond s.issuer (rdnbReply (decide (0 < len)) ((ringContent s .rx).take len))) ∧
      RdnbDone len s t := by
  obtain ⟨t, hreply, ht⟩ := rdnbOp_done s.issuer len s
  exact ⟨t, exec_of_reply (i := .rdnb len) hready hreply, ht⟩

/-- Every next state of `RDNB`. -/
theorem exec_rdnb_next {t : State} (h : exec (.rdnb len) s = .next t) :
    ∃ n m r, Consumed n s m ∧ m.wake = s.wake ∧ t = m.respond s.issuer r := by
  rcases exec_answered_or_ready h with ⟨r, ht⟩ | ⟨hready, -⟩
  · exact ⟨0, s, r, .refl s, rfl, ht⟩
  · obtain ⟨m, hexec, hm⟩ := exec_rdnb hready
    rw [h] at hexec
    cases hexec
    exact ⟨_, m, _, hm.toConsumed, hm.wake, rfl⟩

theorem rxt_of_ready_read (hready : ready (.read len) s) : s.issuer = .rxt := beq_iff_eq.1 hready.1

section Ready

variable (hready : ready (.read len) s)
include hready

theorem exec_read_of_ready : exec (.read len) s = complete .rxt (readOp len .rxt s) := by
  rw [exec_of_ready hready, rxt_of_ready_read hready]
  rfl

theorem exec_read_of_data (hdata : len = 0 ∨ usedNow s .rx ≠ 0) :
    ∃ t, exec (.read len) s = .next (t.respond .rxt (Reply.okData ((ringContent s .rx).take len))) ∧
      Consumed (min len (usedNow s .rx)) s t ∧ t.wake = s.wake := by
  obtain ⟨t, hreply, ht, hwake⟩ := readOp_of_data .rxt hdata
  exact ⟨t, (exec_read_of_ready hready).trans (congrArg (complete .rxt) hreply), ht, hwake⟩

theorem exec_read_of_parked (hlen : len ≠ 0) (hempty : usedNow s .rx = 0) (hwake : s.wake.rx = .parked) :
    exec (.read len) s = .fault .secondWaiter := by
  rw [exec_read_of_ready hready, readOp_of_parked .rxt hlen hempty hwake]
  rfl

theorem exec_read_of_not_parked (hlen : len ≠ 0) (hempty : usedNow s .rx = 0) (hwake : s.wake.rx ≠ .parked) :
    ∃ t, exec (.read len) s = .next (parkedIn t .rxt .rx [.readWait len]) ∧ Consumed 0 s t ∧
      t.wake = s.wake.set .rx .parked := by
  obtain ⟨t, hparks, ht, hparked⟩ := readOp_of_not_parked .rxt hlen hempty hwake
  exact ⟨t, (exec_read_of_ready hready).trans (congrArg (complete .rxt) hparks), ht, hparked⟩

end Ready

/-- Every next state of `READ`: answered, by R96 or by its own rule, or parked. -/
theorem exec_read_next {t : State} (h : exec (.read len) s = .next t) :
    ∃ n m, Consumed n s m ∧ LeftBy .rxt m t := by
  rcases exec_answered_or_ready h with ⟨r, rfl⟩ | ⟨hready, -⟩
  · exact ⟨0, s, .refl s, .answered ..⟩
  · by_cases hdata : len = 0 ∨ usedNow s .rx ≠ 0
    · obtain ⟨m, hexec, hm, -⟩ := exec_read_of_data hready hdata
      rw [h] at hexec
      cases hexec
      exact ⟨_, m, hm, .answered ..⟩
    · obtain ⟨hlen, hempty⟩ := not_or.1 hdata
      by_cases hwake : s.wake.rx = .parked
      · rw [exec_read_of_parked hready hlen (not_not.1 hempty) hwake] at h
        cases h
      · obtain ⟨m, hexec, hm, -⟩ := exec_read_of_not_parked hready hlen (not_not.1 hempty) hwake
        rw [h] at hexec
        cases hexec
        exact ⟨_, m, hm, .parked ..⟩

end Commands

end Sys2Proof.Machine
end

section
/-! SUPPORT. A TX ring drained by a device that accepts every byte (42_interrupt_handler.md R183, 43_thread_api.md
R215). -/

namespace Sys2Proof.Machine

/-- One pass of the transmit loop with data and a device that accepts. -/
theorem txBurstLoop_accepted (a : Agent) (fuel : Nat) {s : State} {tx : List Bool} (hdata : isEmptyNow s .tx = false)
    (htx : s.dev.tx = true :: tx) : txBurstLoop a (fuel + 1) s = txBurstLoop a fuel (transmitByte s tx) := by
  have hanswer : (queryReply .empty (s.widx.get .tx) (s.ridx.get .tx) (s.cap.get .tx)).value ≠ 1 := by
    rw [ne_eq, queryReply_empty_value]
    exact Bool.eq_false_iff.1 hdata
  have hpop := popOp_of_data .tx a (writeByte s (oldestTx s) true tx) hdata
  rw [txBurstLoop, queryOp, andThen_reply, if_neg hanswer, peekOp_of_data .tx a s hdata, andThen_reply, ← oldestTx,
    okVal_byte, devWrite_cons s _ true tx htx]
  exact congrArg (Result.andThen · _) hpop

/-- A device that accepts as many writes as the ring holds bytes takes them all. -/
theorem txBurstLoop_drained (a : Agent) {ws rest : List Bool} (data : Nat) (s : State) (hused : usedNow s .tx = data)
    (htx : s.dev.tx = List.replicate data true ++ rest) :
    ∃ t, txBurstLoop a data s = .reply t Reply.ok0 ∧ Transmitted data ws data s t := by
  induction data generalizing s with
  | zero => exact ⟨s, rfl, .none_moved s⟩
  | succ data ih =>
    have hdata : isEmptyNow s .tx = false := by
      rw [isEmptyNow_false_iff, hused]
      exact Nat.succ_pos data
    have hlevel : usedNow (transmitByte s (List.replicate data true ++ rest)) .tx = data :=
      (RingOk.usedNow_consume (ch := .tx) hdata).trans (congrArg (· - 1) hused)
    obtain ⟨t, hloop, ht⟩ := ih (transmitByte s (List.replicate data true ++ rest)) hlevel rfl
    exact ⟨t, (txBurstLoop_accepted a data hdata htx).trans hloop, ht.accepted hdata htx⟩

/-- The TX ring is empty, everything it held has been sent in order, and the transmit interrupt is off. -/
structure Drained (s t : State) : Prop where
  sent : sentBytes t.trace = sentBytes s.trace ++ ringContent s .tx
  empty : usedNow t .tx = 0
  txie : t.txie = false

/-- `TXBURST` with such a device. -/
theorem exec_txBurst_drained {k : Nat} {ws : List Bool} {s : State} (hready : ready .txBurst s)
    (htx : s.dev.tx = List.replicate k true ++ ws) (hk : usedNow s .tx ≤ k) :
    ∃ t, exec .txBurst s = .next t ∧ Drained s t := by
  have hsplit : s.dev.tx = List.replicate (usedNow s .tx) true ++ (List.replicate (k - usedNow s .tx) true ++ ws) := by
    rw [htx, ← List.append_assoc, List.replicate_append_replicate, Nat.add_sub_of_le hk]
  obtain ⟨m, hloop, hm⟩ := txBurstLoop_drained (ws := ws) s.issuer (usedNow s .tx) s rfl hsplit
  have hburst : txBurstOp s.issuer s = .reply (fcTxiState m) Reply.ok0 :=
    congrArg (fun x => x.andThen fun s _ => (fcTxiOp s).andThen fun s _ => .reply s Reply.ok0) hloop
  have hserved := hm.served
  have hall : transmittedCount true (usedNow s .tx) s = usedNow s .tx := Nat.min_self _
  have hcontent : ringContent (fcTxiState m) .tx = [] := by
    rw [hserved.content, hall, List.drop_of_length_le (ringContent_length s .tx).le]
  refine ⟨_, exec_of_reply hready hburst, ?_, ?_, ?_⟩
  · rw [State.respond_trace, hserved.sent, hall, List.take_of_length_le (ringContent_length s .tx).le]
  · exact (ringContent_length (fcTxiState m) .tx).symm.trans (congrArg List.length hcontent)
  · rw [State.respond_txie, hserved.txie, hall, if_pos rfl, decide_eq_false (not_not_intro rfl), Bool.and_false]

theorem ready_txBurst_of_ready_wrnb {s t : State} {len : Nat} (hready : ready (.wrnb len) s)
    (hidle : t.run.get .isr = .idle) (hcap : t.cap = s.cap) : ready .txBurst { t with issuer := .isr } := by
  obtain ⟨-, -, hneeds⟩ := hready
  refine ⟨rfl, hidle, ?_⟩
  rw [← hneeds]
  exact congrArg (fun cap => [Chan.tx].any fun ch => cap.get ch == 0) hcap

end Sys2Proof.Machine
end

section
/-! PROOFS. The statements of 43_thread_api.md. -/

namespace Sys2Proof.Proofs

open Sys2Proof Sys2Proof.Machine

/-- Settles O33: the loop goes on while there is a byte and room, and the policy tests the counters latched first. -/
theorem writeNonBlockingAppendsPrefix : Obligations.WriteNonBlockingAppendsPrefix := by
  intro s len hready hring
  obtain ⟨t, hexec, ht⟩ := exec_wrnb hready
  have hlen : (callerBytes s.freeCtr len s.payload).length = len := callerBytes_length ..
  have htake : (callerBytes s.freeCtr len s.payload).take (min len (roomNow s .tx)) =
      (callerBytes s.freeCtr len s.payload).take (roomNow s .tx) := by
    rw [List.take_eq_take_iff, hlen]
    omega
  have hcount : ((callerBytes s.freeCtr len s.payload).take (roomNow s .tx)).length = min len (roomNow s .tx) := by
    rw [List.length_take, hlen, Nat.min_comm]
  refine ⟨_, _, rfl, hexec, ?_, ?_, ht.snap_tx, ?_, ?_⟩
  · rw [htake]
    exact ht.content (capLegal_of_ringOk hring)
  · exact hcount ▸ ht.widx_tx
  · exact hlen ▸ ht.txie
  · rw [respond_wrnbReply _ _ _ ((Nat.min_le_right ..).trans_lt (roomNow_lt s .tx)), ht.responses]
    simp only [decide_eq_true_eq]

/-- Settles O34: room for all the bytes, or the ring is filled and the next pass waits. -/
theorem writeCompletesOrParks : Obligations.WriteCompletesOrParks := by
  intro s len hready hlen hring
  have hlegal := capLegal_of_ringOk hring
  refine ⟨fun hroom => ?_, fun hroom hwake => ?_, exec_write_of_parked hready⟩
  · obtain ⟨t, hexec, ht, hwake⟩ := exec_write_of_room hready hroom
    refine ⟨_, hexec, ht.content hlegal, ht.run, hwake, ?_⟩
    rw [State.respond_responses, okVal_count_word hlen, ht.responses, txt_of_ready_write hready]
    rfl
  · obtain ⟨t, hexec, ht, hparked⟩ := exec_write_of_not_parked hready hroom hwake
    refine ⟨_, hexec, ht.content hlegal, ?_, hparked, ?_, ht.responses⟩
    · rw [parkedIn_run, ht.run]
    · rw [parkedIn_seq, ht.seq]

/-- Settles O35: the loop goes on while a byte is wanted and there, and the policy tests the counters latched first. -/
theorem readNonBlockingReturnsOldest : Obligations.ReadNonBlockingReturnsOldest := by
  intro s len hready
  obtain ⟨t, hexec, ht⟩ := exec_rdnb hready
  refine ⟨_, _, rfl, hexec, ht.content, ht.ridx_rx, ht.snap_rx, ht.rxie, ?_⟩
  rw [respond_rdnbReply _ _ _ (length_take_ringContent_lt ..), length_take_ringContent, ht.responses,
    take_min_ringContent]
  simp only [decide_eq_true_eq]

/-- Settles O36: something to answer, or the pass waits. -/
theorem readReturnsOrParks : Obligations.ReadReturnsOrParks := by
  intro s len hready
  refine ⟨fun hdata => ?_, fun hlen hempty hwake => ?_, exec_read_of_parked hready⟩
  · obtain ⟨t, hexec, ht, hwake⟩ := exec_read_of_data hready hdata
    refine ⟨_, _, rfl, hexec, ht.content, ht.run, hwake, ?_⟩
    rw [respond_okData _ _ (length_take_ringContent_lt ..), length_take_ringContent, ht.responses,
      take_min_ringContent, rxt_of_ready_read hready]
  · obtain ⟨t, hexec, ht, hparked⟩ := exec_read_of_not_parked hready hlen hempty hwake
    refine ⟨_, hexec, ht.ridx_of_zero, ?_, hparked, ?_, ht.responses⟩
    · rw [parkedIn_run, ht.run]
    · rw [parkedIn_seq, ht.seq]

/-- Settles O37: `WRNB` leaves at most `cap` bytes in the ring, so the device accepts them all. -/
theorem writtenBytesReachDeviceInOrder : Obligations.WrittenBytesReachDeviceInOrder := by
  intro s len k ws _ hready hring hidle htx hk
  obtain ⟨m, hexec, hm⟩ := exec_wrnb hready
  generalize wrnbReply _ _ = r at hexec
  obtain ⟨u, hburst, hu⟩ := exec_txBurst_drained (s := { m.respond s.issuer r with issuer := .isr })
    (ready_txBurst_of_ready_wrnb (t := m.respond s.issuer r) hready (hm.run ▸ hidle) hm.cap) (hm.dev ▸ htx)
    ((hm.usedNow_le hring).trans hk)
  refine ⟨_, u, hexec, hburst, ?_, hu.empty, hu.txie⟩
  rw [List.append_assoc, ← hm.content (capLegal_of_ringOk hring), ← hm.sent]
  exact hu.sent

/-- Settles O49: each call keeps its frame, and an answer or a wait writes only the thread's own entries besides. -/
theorem threadCallFrame : Obligations.ThreadCallFrame := by
  intro len s t
  refine ⟨fun h => ?_, fun h => ?_, fun h => ?_, fun h => ?_, fun h => ?_, fun h => ?_⟩
  · obtain ⟨bs, m, r, hm, hwake, rfl⟩ := exec_wrnb_next h
    rw [hm.frame, hwake]
    rfl
  · obtain ⟨bs, m, hm, hleft⟩ := exec_write_next h
    rw [hleft.frame, ← hm.run, ← hm.seq]
    refine ⟨?_, hm.wake_rx, hleft.others⟩
    rw [hm.frame]
  · obtain ⟨bs, m, hm, hleft⟩ : ∃ bs m, Appended bs s m ∧ LeftBy .txt m t := by
      refine h.elim (fun h => ?_) exec_write_next
      obtain ⟨bs, m, r, hm, -, rfl⟩ := exec_wrnb_next h
      exact ⟨bs, m, hm, .answered ..⟩
    rw [hleft.frame]
    exact ⟨hm.widx_rx, hm.snap_rx, fun i => memRead_congr s m .rx i hm.storage_rx, hm.kept_outside_passed⟩
  · obtain ⟨n, m, r, hm, hwake, rfl⟩ := exec_rdnb_next h
    rw [hm.frame, hwake]
    rfl
  · obtain ⟨n, m, hm, hleft⟩ := exec_read_next h
    rw [hleft.frame, ← hm.run, ← hm.seq]
    refine ⟨?_, hm.wake_tx, hleft.others⟩
    rw [hm.frame]
  · obtain ⟨n, m, hm, hleft⟩ : ∃ n m, Consumed n s m ∧ LeftBy .rxt m t := by
      refine h.elim (fun h => ?_) exec_read_next
      obtain ⟨n, m, r, hm, -, rfl⟩ := exec_rdnb_next h
      exact ⟨n, m, hm, .answered ..⟩
    rw [hleft.frame]
    exact ⟨hm.ridx_tx, hm.snap_tx, fun d i => memRead_congr s m d i (congrArg (PerChan.get · d) hm.storage)⟩

end Sys2Proof.Proofs
end

section
/-! SUPPORT. The wake signal, the timer and the construction as commands (44_wake_timer_lifecycle.md R241 to R251): the
exact state each leaves, and every next state there is. -/

namespace Sys2Proof.Machine

/-! ### Turns that move nobody (R242), and the turn of a resumed waiter -/

/-- No turn and no handler operation that holds the block (log 3). -/
theorem step_no_turn {s : State} (hfree : isrHolds s = false) (hs : s.sched = []) : step s = .next s := by
  simp [step, turn, hs, hfree]

theorem agentTurn_parked {f : Instr → State → Host.Outcome State Fault Refusal} {s : State} {a : Agent}
    (hrun : s.run.get a = .parked) : agentTurn f a s = .next s := by
  rw [agentTurn, hrun]

/-- A resumed waiter answers in its next event. -/
theorem agentEvent_wait2 {s : State} {a : Agent} {ch : Chan} (hseq : s.seq.get a = some ⟨.wait2 ch, []⟩) :
    agentEvent a s = .next (finish a Reply.ok0 s) := by
  rw [agentEvent, hseq]
  rfl

/-! ### The wake signal -/

theorem raiseWake_eq (s : State) (ch : Chan) :
    s.raiseWake ch = { s with
      wake := s.wake.set ch (if s.wake.get ch = .parked then .idle else .raised)
      run := if s.wake.get ch = .parked then s.run.set (threadOf ch) .busy else s.run } := by
  rw [raiseWake_frame, raiseWake_wake_eq, raiseWake_run_eq]

theorem setWake_same {s : State} {ch : Chan} {v : Wake} (h : s.wake.get ch = v) : s.setWake ch v = s := by
  rw [State.setWake, ← h, PerChan.set_get]

/-- A reset clears a raised signal and leaves a parked one to its waiter (R243). -/
theorem resetWake_eq (s : State) (ch : Chan) :
    s.resetWake ch = s.setWake ch (if s.wake.get ch = .parked then .parked else .idle) := by
  unfold State.resetWake
  split
  · next hw => rw [hw]; rfl
  · next hw => rw [hw]; exact (setWake_same hw).symm
  · next hw => rw [hw]; exact (setWake_same hw).symm

/-! ### The timer -/

theorem armTimer_eq (s : State) :
    s.armTimer = { s with
      tmr := .armed, trace := if s.tmr = .idle then .startOneShot Config.timerMs :: s.trace else s.trace } := by
  rcases armTimer_cases s with ⟨htmr, h⟩ | ⟨htmr, h⟩ <;> rw [h, htmr]
  · exact congrArg (fun v => { s with tmr := v }) htmr
  · rfl

theorem stopTimer_eq (s : State) :
    s.stopTimer = { s with tmr := .idle, trace := if s.tmr = .armed then .stop :: s.trace else s.trace } := by
  rcases stopTimer_cases s with ⟨htmr, h⟩ | ⟨htmr, h⟩ <;> rw [h, htmr]
  · exact congrArg (fun v => { s with tmr := v }) htmr
  · rfl

theorem fireTimer_eq (s : State) : s.fireTimer = { s with tmr := .idle }.raiseWake .rx := rfl

/-! ### Every next state of the wake operations -/

section Wake

variable {s t : State} {ch : Chan}

theorem exec_raise_frame (h : exec (.raise ch) s = .next t) :
    t = { s with wake := t.wake, run := t.run, responses := t.responses } ∧
      (∀ d, d ≠ ch → t.wake.get d = s.wake.get d) ∧ ∀ a, a ≠ threadOf ch → t.run.get a = s.run.get a := by
  obtain ⟨u, r, rfl | rfl, rfl⟩ := exec_next_of_reply h rfl
  · exact ⟨rfl, fun _ _ => rfl, fun _ _ => rfl⟩
  · refine ⟨?_, fun d hd => ?_, fun a ha => ?_⟩
    · rw [raiseWake_eq]
      rfl
    · rw [raiseWake_eq]
      exact PerChan.get_set_ne _ _ _ _ hd
    · exact (raiseWake_run s ch a).resolve_right fun ⟨hth, _⟩ => ha hth

theorem exec_wreset_frame (h : exec (.wreset ch) s = .next t) :
    t = { s with wake := t.wake, responses := t.responses } ∧ ∀ d, d ≠ ch → t.wake.get d = s.wake.get d := by
  obtain ⟨u, r, rfl | rfl, rfl⟩ := exec_next_of_reply h rfl
  · exact ⟨rfl, fun _ _ => rfl⟩
  · rw [resetWake_eq]
    exact ⟨rfl, fun d hd => PerChan.get_set_ne _ _ _ _ hd⟩

theorem exec_wait_of_ready (hready : ready (.wait ch) s) :
    exec (.wait ch) s = complete s.issuer (waitOp ch [] s) :=
  exec_of_ready hready

/-- `WAIT` sets its signal, where R96 does not answer for it, and answers or is left waiting. -/
theorem exec_wait_next (h : exec (.wait ch) s = .next t) : ∃ v, LeftBy s.issuer (s.setWake ch v) t := by
  rcases exec_answered_or_ready h with ⟨r, rfl⟩ | ⟨hready, -⟩
  · refine ⟨s.wake.get ch, ?_⟩
    rw [setWake_same rfl]
    exact .answered ..
  · rw [exec_wait_of_ready hready] at h
    cases hw : s.wake.get ch with
    | raised =>
      rw [waitOp_of_raised [] hw] at h
      cases h
      exact ⟨.idle, .answered ..⟩
    | idle =>
      rw [waitOp_of_idle [] hw] at h
      cases h
      exact ⟨.parked, .parked ..⟩
    | parked =>
      rw [waitOp_of_parked [] hw] at h
      cases h

theorem exec_wait_frame (h : exec (.wait ch) s = .next t) :
    t = { s with wake := t.wake, run := t.run, seq := t.seq, responses := t.responses } ∧
      (∀ d, d ≠ ch → t.wake.get d = s.wake.get d) ∧
      ∀ a, a ≠ s.issuer → t.run.get a = s.run.get a ∧ t.seq.get a = s.seq.get a := by
  obtain ⟨v, hleft⟩ := exec_wait_next h
  refine ⟨?_, ?_, hleft.others⟩ <;> rw [hleft.frame]
  · rfl
  · exact fun d hd => PerChan.get_set_ne _ _ _ _ hd

theorem exec_tfire_frame (h : exec .tfire s = .next t) :
    t = { s with tmr := t.tmr, wake := t.wake, run := t.run, responses := t.responses } ∧
      t.wake.tx = s.wake.tx ∧ ∀ a, a ≠ .rxt → t.run.get a = s.run.get a := by
  obtain ⟨u, r, rfl | rfl, rfl⟩ := exec_next_of_reply h rfl
  · exact ⟨rfl, rfl, fun _ _ => rfl⟩
  · refine ⟨?_, ?_, fun a ha => ?_⟩
    · rw [fireTimer_eq, raiseWake_eq]
      rfl
    · rw [fireTimer_eq, raiseWake_eq]
      rfl
    · exact (raiseWake_run { s with tmr := .idle } .rx a).resolve_right fun ⟨hth, _⟩ => ha hth

theorem wake_storage {i : Instr} (hi : i ∈ ([.raise ch, .wreset ch, .wait ch, .tfire] : List Instr))
    (h : exec i s = .next t) : t.storage = s.storage := by
  simp only [List.mem_cons, List.not_mem_nil, or_false] at hi
  rcases hi with rfl | rfl | rfl | rfl
  · obtain ⟨hframe, -⟩ := exec_raise_frame h
    rw [hframe]
  · obtain ⟨hframe, -⟩ := exec_wreset_frame h
    rw [hframe]
  · obtain ⟨hframe, -⟩ := exec_wait_frame h
    rw [hframe]
  · obtain ⟨hframe, -⟩ := exec_tfire_frame h
    rw [hframe]

end Wake

/-! ### The capacity tests (R250) -/

/-- The test of R250 accepts the powers of two and nothing else: the predecessor of one is the mask that it is 0
under. -/
theorem powerOfTwo_iff (c : Index) : powerOfTwo c = true ↔ ∃ k, c.toNat = 2 ^ k := by
  refine ⟨powerOfTwo_toNat c, fun ⟨k, hk⟩ => ?_⟩
  have hne : c ≠ 0 := by
    rintro rfl
    exact (Nat.two_pow_pos k).ne hk
  have hslot : slotOf c c = 0 := by rw [slotOf_eq_mod c c k hk, Nat.mod_self]
  have hand : c &&& (c - 1) = 0 := BitVec.eq_of_toNat_eq hslot
  rw [powerOfTwo, Bool.and_eq_true, bne_iff_ne, beq_iff_eq]
  exact ⟨hne, hand⟩

theorem capInRange_iff (c : Index) : capInRange c = true ↔ 2 ≤ c.toNat ∧ c.toNat ≤ 16384 := by
  rw [capInRange, Bool.and_eq_true, decide_eq_true_eq, decide_eq_true_eq]
  rfl

/-- A constructed channel's capacity passes both tests. -/
theorem capLegal_constructed {c : Index} (hlegal : capLegal c = true) (hc : c ≠ 0) :
    powerOfTwo c = true ∧ capInRange c = true := by
  rw [capLegal, Bool.or_eq_true, beq_iff_eq, Bool.and_eq_true] at hlegal
  exact hlegal.resolve_left hc

/-! ### `CONSTRUCT` (R250) -/

theorem rejected_power_word : (Reply.rejected 1).word = 0x30000001 := by decide

theorem rejected_range_word : (Reply.rejected 2).word = 0x30000002 := by decide

theorem rejected_constructed_word : (Reply.rejected 3).word = 0x30000003 := by decide

section Construct

variable {s : State} {ch : Chan} {capv : Index}

theorem constructOp_of_constructed (hcap : s.cap.get ch ≠ 0) :
    constructOp ch capv s = .reply s (Reply.rejected 3) :=
  if_pos hcap

theorem constructOp_of_not_powerOfTwo (hcap : s.cap.get ch = 0) (hpow : powerOfTwo capv = false) :
    constructOp ch capv s = .reply s (Reply.rejected 1) := by
  rw [constructOp, if_neg (not_not.2 hcap), if_pos hpow]

theorem constructOp_of_out_of_range (hcap : s.cap.get ch = 0) (hpow : powerOfTwo capv = true)
    (hrange : capInRange capv = false) : constructOp ch capv s = .reply s (Reply.rejected 2) := by
  rw [constructOp, if_neg (not_not.2 hcap), if_neg (Bool.not_eq_false _ ▸ hpow), if_pos hrange]

theorem constructOp_of_legal (hcap : s.cap.get ch = 0) (hpow : powerOfTwo capv = true)
    (hrange : capInRange capv = true) : constructOp ch capv s = .reply (s.constructChan ch capv) Reply.ok0 := by
  rw [constructOp, if_neg (not_not.2 hcap), if_neg (Bool.not_eq_false _ ▸ hpow),
    if_neg (Bool.not_eq_false _ ▸ hrange)]

/-- `CONSTRUCT` always answers, and changes nothing or constructs the channel. -/
theorem constructOp_reply (ch : Chan) (capv : Index) (s : State) :
    ∃ m r, constructOp ch capv s = .reply m r ∧ (m = s ∨ m = s.constructChan ch capv) := by
  unfold constructOp
  split_ifs
  · exact ⟨_, _, rfl, .inl rfl⟩
  · exact ⟨_, _, rfl, .inl rfl⟩
  · exact ⟨_, _, rfl, .inl rfl⟩
  · exact ⟨_, _, rfl, .inr rfl⟩

theorem exec_construct_next {t : State} (h : exec (.construct ch capv) s = .next t) :
    ∃ m r, (m = s ∨ m = s.constructChan ch capv) ∧ t = m.respond s.issuer r := by
  obtain ⟨m, r, hreply, hm⟩ := constructOp_reply ch capv s
  obtain ⟨u, r, rfl | rfl, ht⟩ := exec_next_of_reply (i := .construct ch capv) h hreply
  · exact ⟨_, r, .inl rfl, ht⟩
  · exact ⟨_, r, hm, ht⟩

theorem exec_construct_of_legal (hready : ready (.construct ch capv) s) (hcap : s.cap.get ch = 0)
    (hpow : powerOfTwo capv = true) (hrange : capInRange capv = true) :
    exec (.construct ch capv) s = .next ((s.constructChan ch capv).respond s.issuer Reply.ok0) :=
  exec_of_reply hready (constructOp_of_legal hcap hpow hrange)

end Construct

/-! ### From reset to the flow-control invariant -/

theorem exec_ringInv {i : Instr} {s t : State} (hs : ringInv s = true) (h : exec i s = .next t) : ringInv t = true :=
  ((Moves.command (.refl s) (exec_performed h)).legal hs).ringInv_kept hs

/-- The state that the two constructions lead to from reset. -/
def bothConstructed (c d : Index) : State :=
  (((State.reset.constructChan .rx c).respond .host Reply.ok0).constructChan .tx d).respond .host Reply.ok0

/-- The state after `SETUP` there. -/
def bothSetUp (c d : Index) : State := (bothConstructed c d).enableRx.respond .host Reply.ok0

theorem ready_setup_bothConstructed {c d : Index} (hc : c ≠ 0) (hd : d ≠ 0) :
    ready .setup (bothConstructed c d) := by
  refine ⟨rfl, rfl, List.any_eq_false.2 fun ch _ => ?_⟩
  rw [beq_iff_eq]
  cases ch with
  | rx => exact hc
  | tx => exact hd

/-- Besides the ring invariant: nothing is in progress or to come, the receive interrupt is on and the TX ring is
empty. -/
theorem flowInv_bothSetUp {c d : Index} (hc : c ≠ 0) (hd : d ≠ 0) (hring : ringInv (bothSetUp c d) = true) :
    flowInv (bothSetUp c d) = true := by
  refine (flowInv_iff _).2 ⟨⟨hring, rfl, fun ch => ?_, nofun, fun ch => ?_⟩, fun ch => ?_, rfl⟩
  · cases ch with
    | rx => exact hc
    | tx => exact hd
  · cases ch <;> exact nofun
  · have hnone : (bothSetUp c d).seq.get (threadOf ch) = none := by cases ch <;> rfl
    rw [sideOk_of_none hnone, chanFlowOk_iff]
    cases ch with
    | rx => exact .inr rfl
    | tx => exact .inl ((emptyAt_iff ..).2 rfl)

end Sys2Proof.Machine
end

section
/-! PROOFS. The statements of 44_wake_timer_lifecycle.md. -/

namespace Sys2Proof.Proofs

open Sys2Proof Sys2Proof.Machine

/-- Settles O38: a raise and a reset are one write of the signal, which only a parked one makes different. -/
theorem raiseAndResetTransitions : Obligations.RaiseAndResetTransitions := by
  intro ch s
  refine ⟨fun hready => ?_, fun hready => ?_⟩
  · rw [exec_of_reply hready rfl, respond_ok0, raiseWake_eq]
  · rw [exec_of_reply hready rfl, respond_ok0, resetWake_eq]
    rfl

/-- Settles O39: the three states of the signal are the three ends of `WAIT`, and the one event at `WAIT.2` is the
answer. -/
theorem waitTransitions : Obligations.WaitTransitions := by
  refine ⟨fun ch s hready => ⟨fun hw => ?_, fun hw => ?_, fun hw => ?_⟩, fun ch s ts hs hfree hrun hseq => ?_⟩
  · rw [exec_of_reply hready (waitOp_of_raised [] hw), respond_ok0]
    rfl
  · rw [exec_wait_of_ready hready, waitOp_of_idle [] hw]
    rfl
  · rw [exec_wait_of_ready hready, waitOp_of_parked [] hw]
    rfl
  · have hturn := (step_run hfree hs).trans (agentTurn_busy (s := { s with sched := ts }) hrun)
    rw [hturn, agentEvent_wait2 (s := { s with sched := ts }) hseq, finish, respond_ok0]
    rfl

/-- Settles O40: each leaves the timer in one state, and the call is made only where that is a change. -/
theorem timerArmStopFire : Obligations.TimerArmStopFire := by
  intro s
  refine ⟨fun hready => ?_, fun hready => ?_, fun hready => ?_⟩
  · rw [exec_of_reply hready rfl, respond_ok0, armTimer_eq]
    rfl
  · rw [exec_of_reply hready rfl, respond_ok0, stopTimer_eq]
  · rw [exec_of_reply hready rfl, respond_ok0, fireTimer_eq, raiseWake_eq]
    rfl

/-- Settles O41: `2^1` to `2^14` are the powers of two in range. -/
theorem constructAcceptsLegalCapacity : Obligations.ConstructAcceptsLegalCapacity := by
  rintro ch capv s hready hcap ⟨k, hlow, hhigh, hk⟩
  have hrange : capInRange capv = true := by
    rw [capInRange_iff, hk]
    exact ⟨Nat.pow_le_pow_right (i := 1) two_pos hlow, Nat.pow_le_pow_right (j := 14) two_pos hhigh⟩
  rw [exec_construct_of_legal hready hcap ((powerOfTwo_iff capv).2 ⟨k, hk⟩) hrange, respond_ok0]
  rfl

/-- Settles O42: each test is reached where the ones before it pass, and 1 and 32768 are powers of two. -/
theorem constructRejectsInOrder : Obligations.ConstructRejectsInOrder := by
  intro ch capv s hready
  refine ⟨fun hcap => ?_, fun hcap hpow => ?_, fun hcap hends => ?_⟩
  · rw [exec_of_reply hready (constructOp_of_constructed hcap), State.respond, rejected_constructed_word]
    rfl
  · have hpow' : powerOfTwo capv = false := Bool.eq_false_iff.2 fun h => hpow ((powerOfTwo_iff capv).1 h)
    rw [exec_of_reply hready (constructOp_of_not_powerOfTwo hcap hpow'), State.respond, rejected_power_word]
    rfl
  · have hpow : powerOfTwo capv = true := (powerOfTwo_iff capv).2 (hends.elim (⟨0, ·⟩) (⟨15, ·⟩))
    have hrange : capInRange capv = false := by
      rw [Bool.eq_false_iff, ne_eq, capInRange_iff]
      omega
    rw [exec_of_reply hready (constructOp_of_out_of_range hcap hpow hrange), State.respond, rejected_range_word]
    rfl

/-- Settles O47: the frames of the four commands, none of which names the storage. -/
theorem wakeFrame : Obligations.WakeFrame := fun _ _ _ =>
  ⟨exec_raise_frame, exec_wreset_frame, exec_wait_frame, exec_tfire_frame,
    fun _ hi h d a => memRead_congr _ _ d a (congrArg (PerChan.get · d) (wake_storage hi h))⟩

/-- Settles O50: a construction sets the elements of one channel, and any other answer changes nothing. -/
theorem constructFrame : Obligations.ConstructFrame := by
  intro ch capv s t h
  obtain ⟨m, r, rfl | rfl, rfl⟩ := exec_construct_next h
  · exact ⟨rfl, fun _ => rfl, fun _ _ => ⟨rfl, rfl, rfl, rfl, rfl, rfl, fun _ => rfl⟩⟩
  · refine ⟨rfl, ?_, fun d hd => ?_⟩
    · rintro rfl
      rfl
    · have hkept : ∀ {α : Type} (p : PerChan α) (v : α), (p.set ch v).get d = p.get d := fun p v =>
        PerChan.get_set_ne p ch d v hd
      exact ⟨hkept .., hkept .., hkept .., hkept .., hkept .., hkept .., fun a => memRead_congr _ _ d a (hkept ..)⟩

/-- Settles O58: every command keeps the ring invariant, which holds at reset; no operation is in progress, the TX ring
is empty and the receive interrupt is on. -/
theorem flowInvariantAfterSetup : Obligations.FlowInvariantAfterSetup := by
  intro c d hc hc0 hd hd0
  obtain ⟨hcpow, hcrange⟩ := capLegal_constructed hc hc0
  obtain ⟨hdpow, hdrange⟩ := capLegal_constructed hd hd0
  have hrx := exec_construct_of_legal (s := State.reset) (ch := .rx) ⟨rfl, rfl, rfl⟩ rfl hcpow hcrange
  have htx : exec (.construct .tx d) ((State.reset.constructChan .rx c).respond .host Reply.ok0) =
      .next (bothConstructed c d) :=
    exec_construct_of_legal ⟨rfl, rfl, rfl⟩ rfl hdpow hdrange
  have hsetup : exec .setup (bothConstructed c d) = .next (bothSetUp c d) :=
    exec_of_reply (ready_setup_bothConstructed hc0 hd0) rfl
  have hring := exec_ringInv (exec_ringInv (exec_ringInv ringInvariantAtReset hrx) htx) hsetup
  exact ⟨_, _, _, hrx, htx, hsetup, rfl, rfl, rfl, flowInv_bothSetUp hc0 hd0 hring⟩

/-- Settles O7: a PARKED agent has no event to perform, and an empty schedule has no turn. -/
theorem parkedAgentPerformsNoEvent : Obligations.ParkedAgentPerformsNoEvent := by
  refine ⟨?_, fun _ => step_no_turn⟩
  rintro s a ts hfree hrun (hs | hs)
  · exact (step_run hfree hs).trans (agentTurn_parked hrun)
  · exact (step_event hfree hs).trans (agentTurn_parked hrun)

/-- Settles O43: the enable call and its flag are one event, and nothing else is done. -/
theorem setupEnablesReceive : Obligations.SetupEnablesReceive := by
  intro s hready
  rw [exec_of_reply hready rfl, respond_ok0]
  rfl

end Sys2Proof.Proofs
end

section
/-! SUPPORT. Commands and words that are not accepted (30_encoding.md R96, 60_exceptions.md R288), and the one event of
a contract violation (R281). -/

namespace Sys2Proof.Machine

/-! ### `ILLEGAL` (R96, R288) -/

theorem respond_illegal (s : State) (a : Agent) :
    s.respond a Reply.illegal = { s with responses := ⟨a, 0x40000000, []⟩ :: s.responses } := by
  rw [State.respond, illegal_word]
  rfl

theorem exec_not_accepted {i : Instr} {s : State} (hacc : accepts s.issuer i = false) :
    exec i s = .next { s with responses := ⟨s.issuer, 0x40000000, []⟩ :: s.responses } := by
  rw [exec_eq_perform, perform, accept, if_pos hacc, respond_illegal]

/-- A port with no operation in progress takes a word that is no operation and answers it. -/
theorem agentTurn_undecodable {f : Instr → State → Host.Outcome State Fault Refusal} {s : State} {a : Agent}
    {c : Command} {rest : List Command} {e : DecodeError} (hrun : PortFree s a)
    (hport : s.ports.get a = c :: rest) (hdec : decode c.word = .error e) :
    agentTurn f a s = .next { s with
      ports := s.ports.set a rest, issuer := a, payload := c.data
      responses := ⟨a, 0x40000000, []⟩ :: s.responses } := by
  have hturn : agentTurn f a s = portTurn f a s := by
    rcases hrun with h | h <;> rw [agentTurn, h]
  rw [hturn, portTurn, hport]
  simp only [hdec, respond_illegal]
  rfl

/-! ### A contract violation (R281) -/

theorem violation_eq_afterViolation (s : State) (a : Agent) (code : ViolationCode) (ch : Chan) :
    s.violation a code ch = afterViolation s a code ch := by
  rw [State.violation, afterViolation]
  cases s.fault <;> rfl

theorem violation_respond (s : State) (a : Agent) (code : ViolationCode) (ch : Chan) :
    (s.violation a code ch).respond a (Reply.faultOf code) =
      { afterViolation s a code ch with
        responses := ⟨a, 0x20000000 ||| code.number.setWidth 32, []⟩ :: s.responses } := by
  rw [State.respond, faultOf_word, violation_eq_afterViolation]
  rfl

theorem exec_of_violation {i : Instr} {s : State} {code : ViolationCode} {ch : Chan} (hready : ready i s)
    (hviolates : meaning i s.issuer s = violate s.issuer code ch s) :
    exec i s = .next { afterViolation s s.issuer code ch with
      responses := ⟨s.issuer, 0x20000000 ||| code.number.setWidth 32, []⟩ :: s.responses } := by
  rw [exec_of_ready hready, hviolates, violate, complete_violated, violation_respond]

/-- A labelled step that only goes on writes nothing but its agent's position. -/
theorem agentEvent_of_go {a : Agent} {s : State} {p p' : Pos} {cs : List Caller} (hseq : s.seq.get a = some ⟨p, cs⟩)
    (hgo : posEvent a s p = .go s p' []) : agentEvent a s = .next { s with seq := s.seq.set a (some ⟨p', cs⟩) } := by
  rw [agentEvent_of_seq hseq, hgo]
  rfl

theorem isEmptyNow_of_eq {s : State} {ch : Chan} (h : s.widx.get ch = s.ridx.get ch) : isEmptyNow s ch = true :=
  (emptyAt_iff ..).2 h

/-! ### Where a labelled step can end an operation otherwise than by an answer -/

/-- The labelled step goes on or answers. -/
def EventResult.goesOn : EventResult → Prop
  | .go _ _ _ | .answer _ _ => True
  | .violated _ _ | .park _ _ | .stuck _ => False

/-- What the labelled step at a position can be: any step may go on or answer, only the raise of a violation is a
violation, and only `WAIT.1` parks or has no meaning. -/
inductive StepAt : Pos → EventResult → Prop
  | goesOn (p : Pos) {r : EventResult} (h : r.goesOn) : StepAt p r
  | violated (code : ViolationCode) (ch : Chan) (s : State) (r : Reply) : StepAt (.violate code ch) (.violated s r)
  | park (ch : Chan) (s : State) (p : Pos) : StepAt (.wait1 ch) (.park s p)
  | stuck (ch : Chan) (f : Fault) : StepAt (.wait1 ch) (.stuck f)

theorem fcTxiTail_goesOn (s : State) (u : Index) : (fcTxiTail s u).goesOn := by
  unfold fcTxiTail
  split <;> trivial

theorem fcRxiTail_goesOn (s : State) (u : Index) : (fcRxiTail s u).goesOn := by
  unfold fcRxiTail
  split
  · trivial
  · split <;> trivial

theorem posEvent_stepAt (a : Agent) (s : State) (p : Pos) : StepAt p (posEvent a s p) := by
  cases p with
  | violate code ch => exact .violated code ch _ _
  | wait1 ch =>
    rw [posEvent]
    split
    · exact .goesOn _ trivial
    · exact .park ch _ _
    · exact .stuck ch _
  | push2 | pop2 | peek2 | fcTxt2 | fcRxt2 | isr1 | isr3 | isr4 | errChk1 | errChk2 | rxBurst2 | txBurst3 =>
    rw [posEvent]
    split <;> exact .goesOn _ trivial
  | fcTxi2 w =>
    rw [posEvent]
    split
    · exact .goesOn _ trivial
    · exact .goesOn _ (fcTxiTail_goesOn ..)
  | fcRxi2 w =>
    rw [posEvent]
    split
    · exact .goesOn _ trivial
    · exact .goesOn _ (fcRxiTail_goesOn ..)
  | fcTxi3 u => exact .goesOn _ (fcTxiTail_goesOn ..)
  | fcRxi3 u => exact .goesOn _ (fcRxiTail_goesOn ..)
  | construct1 ch capv =>
    refine .goesOn _ ?_
    rw [posEvent]
    split_ifs <;> trivial
  | _ => exact .goesOn _ trivial

/-- A step that goes on or answers leaves its agent with the status it had, or idle. -/
theorem settle_of_goesOn {r : EventResult} (a : Agent) (cs : List Caller) (hr : r.goesOn) :
    ∃ m v q rs, r.state = some m ∧ (v = .idle ∨ v = m.run.get a) ∧ settle a cs r = .next (m.own a v q rs) := by
  cases r with
  | go m p ds => exact ⟨m, _, _, _, rfl, .inr rfl, congrArg _ (State.setSeq_eq_own rfl _)⟩
  | answer m r =>
    obtain ⟨v, q, rs, hv, hown⟩ := unwind_own a cs r m
    exact ⟨m, v, q, rs, rfl, hv, congrArg _ hown⟩
  | violated | park | stuck => exact hr.elim

end Sys2Proof.Machine
end

section
/-! SUPPORT. What legal states rule out: a violation inside a composite (60_exceptions.md R282), and a handler that
waits (R295, R303). -/

namespace Sys2Proof.Machine

section Legal

variable {a : Agent} {s t : State}

/-- An agent BUSY in a legal state stands at a labelled step that its port accepts, and the step holds what the ring
invariant says of it. -/
theorem busy_step (hs : ringInv s = true) (hrun : s.run.get a = .busy) :
    ∃ p cs, s.seq.get a = some ⟨p, cs⟩ ∧ permitted s a (opOf p) = true ∧
      EventOk a s p (!cs.isEmpty) (posEvent a s p) := by
  obtain ⟨⟨p, cs⟩, hseq, hq⟩ := agentOk_of_busy ((ringInv_iff_base s a).1 hs).2 hrun
  obtain ⟨hch, hout, hpos⟩ := (seqOk_iff ..).1 hq
  have hp := (permitted_chain hch hout).1
  exact ⟨p, cs, hseq, hp, posEvent_ok hp hpos⟩

/-- No write that an agent makes in an event is on its own status. -/
theorem EventOk.run_kept {p : Pos} {inside : Bool} {r : EventResult} {m : State} (h : EventOk a s p inside r)
    (hr : r.goesOn) (hm : r.state = some m) : m.run.get a = s.run.get a := by
  cases h with
  | go p' ds h | answer r h =>
    cases hm
    exact h.ownKept.run
  | violated | park | stuck => exact hr.elim

/-- Only the raise of a violation halts its agent, and at that position the ring invariant has no composite around the
operation. -/
theorem seq_of_halted (hs : ringInv s = true) (hrun : s.run.get a = .busy) (h : agentEvent a s = .next t)
    (hhalted : t.run.get a = .halted) : ∃ code ch, s.seq.get a = some ⟨.violate code ch, []⟩ := by
  obtain ⟨p, cs, hseq, -, hok⟩ := busy_step hs hrun
  rw [agentEvent_of_seq hseq] at h
  have hstep := posEvent_stepAt a s p
  generalize posEvent a s p = r at h hok hstep
  cases hstep with
  | goesOn _ hr =>
    obtain ⟨m, v, q, rs, hm, hv, hsettle⟩ := settle_of_goesOn a cs hr
    rw [hsettle] at h
    cases h
    obtain rfl : v = .halted := (PerAgent.get_set_same ..).symm.trans hhalted
    simp [hok.run_kept hr hm, hrun] at hv
  | violated code ch =>
    cases hok with
    | violated _ _ _ hlone =>
      obtain rfl : cs = [] := by simpa using hlone
      exact ⟨code, ch, hseq⟩
  | park =>
    cases h
    cases (PerAgent.get_set_same ..).symm.trans hhalted
  | stuck => cases h

/-- Only a thread parks. -/
theorem Ends.not_parked (h : Ends a s t) (ha : ∀ ch, a ≠ threadOf ch) : t.run.get a ≠ .parked := by
  cases h with
  | @own m v q rs h hv => exact (PerAgent.get_set_same m.run a v).trans_ne hv
  | halt code ch q rs h => exact (PerAgent.get_set_same ..).trans_ne nofun
  | park ch q rs h hthread => exact absurd hthread (ha ch)

/-- Only a step of `WAIT` has no next state, and no port but a thread's accepts `WAIT`. -/
theorem agentEvent_next (hs : ringInv s = true) (hrun : s.run.get a = .busy) (ha : ∀ ch, a ≠ threadOf ch) :
    ∃ t, agentEvent a s = .next t := by
  obtain ⟨p, cs, hseq, hp, -⟩ := busy_step hs hrun
  rw [agentEvent_of_seq hseq]
  have hwait : ∀ ch, p ≠ .wait1 ch := by
    rintro ch rfl
    exact ha ch ((accepts_wait ..).1 ((permitted_iff ..).1 hp).1)
  have hstep := posEvent_stepAt a s p
  generalize posEvent a s p = r at hstep
  cases hstep with
  | goesOn _ hr =>
    obtain ⟨m, v, q, rs, -, -, hsettle⟩ := settle_of_goesOn a cs hr
    exact ⟨_, hsettle⟩
  | violated => exact ⟨_, rfl⟩
  | park ch | stuck ch => exact absurd rfl (hwait ch)

end Legal

/-! ### Operations at the port of the handler -/

theorem complete_of_not_stuck (a : Agent) {x : Result} (h : ∀ f, x ≠ .stuck f) : ∃ t, complete a x = .next t := by
  cases x with
  | reply | violated | inProgress => exact ⟨_, rfl⟩
  | stuck f => exact absurd rfl (h f)

section NotStuck

variable (ch : Chan) (a : Agent) (s : State) (f : Fault)

theorem pushOp_not_stuck (b : Byte) : pushOp ch b a s ≠ .stuck f := by
  cases hfull : isFullNow s ch with
  | false => rw [pushOp_of_room ch b a s hfull]; nofun
  | true => rw [pushOp_of_full ch b a s hfull]; nofun

theorem popOp_not_stuck : popOp ch a s ≠ .stuck f := by
  cases hempty : isEmptyNow s ch with
  | false => rw [popOp_of_data ch a s hempty]; nofun
  | true => rw [popOp_of_empty ch a s hempty]; nofun

theorem peekOp_not_stuck : peekOp ch a s ≠ .stuck f := by
  cases hempty : isEmptyNow s ch with
  | false => rw [peekOp_of_data ch a s hempty]; nofun
  | true => rw [peekOp_of_empty ch a s hempty]; nofun

end NotStuck

/-- The bursts and the handler answer or pause, and no operation at the handler's port is a `WAIT`. -/
theorem meaning_isr_not_stuck {i : Instr} (hacc : accepts .isr i = true) (s : State) (f : Fault) :
    meaning i .isr s ≠ .stuck f := by
  cases i with
  | push ch b => exact pushOp_not_stuck ch .isr s f b
  | pop ch => exact popOp_not_stuck ch .isr s f
  | peek ch => exact peekOp_not_stuck ch .isr s f
  | used | isFull | isEmpty | cap | fcTxi | fcRxi | errChk | raise | tarm | tstop => nofun
  | rxBurst =>
    obtain ⟨m, hreply, -⟩ := rxBurstOp_frame .isr s
    rw [meaning, hreply]
    nofun
  | txBurst =>
    obtain ⟨m, hreply, -⟩ := txBurstOp_frame .isr s
    rw [meaning, hreply]
    nofun
  | isr =>
    obtain ⟨m, -, hend | hend⟩ := isrLoop_frame .isr (s.dev.poll.length + 1) s <;> rw [meaning, isrOp, hend] <;> nofun
  | snap ch => exact absurd ((accepts_snap ..).1 hacc).symm (threadOf_ne_isr ch)
  | wait ch => exact absurd ((accepts_wait ..).1 hacc).symm (threadOf_ne_isr ch)
  | _ => cases hacc

/-- What an idle agent that is no thread leaves by a command is never a parking. -/
theorem Performed.not_parked {s t : State} (h : Performed s t) (hidle : s.run.get s.issuer = .idle)
    (ha : ∀ ch, s.issuer ≠ threadOf ch) : t.run.get s.issuer ≠ .parked := by
  rcases h with hsame | ⟨-, hends, -⟩
  · rw [hsame.run, hidle]
    nofun
  · exact hends.not_parked ha

end Sys2Proof.Machine
end

section
/-! PROOFS. The statements of 60_exceptions.md. -/

namespace Sys2Proof.Proofs

open Sys2Proof Sys2Proof.Machine

/-- Settles O13: the port's own test comes first of all, and a word that does not decode reaches no test. -/
theorem illegalCommandChangesNothing : Obligations.IllegalCommandChangesNothing := by
  refine ⟨fun _ _ => exec_not_accepted, fun s a c rest ts e hfree hrun hsched hport hdec => ⟨_, ?_, rfl⟩⟩
  rcases hsched with hsched | hsched
  · exact (step_run hfree hsched).trans (agentTurn_undecodable hrun hport hdec)
  · exact (step_event hfree hsched).trans (agentTurn_undecodable hrun hport hdec)

/-- Settles O20: the test of each operation is the condition of its code, and both forms of the operation make the one
write of R281. -/
theorem contractViolationHaltsAgent : Obligations.ContractViolationHaltsAgent := by
  refine ⟨fun ch b s hready hfull => ?_, fun ch s hready heq => ?_, fun ch s hready heq => ?_,
    fun a code ch cs s hseq => ?_, fun a ch b w cs s hseq hfull => ?_, fun a ch cs s => ⟨fun hseq => ?_, fun hseq => ?_⟩⟩
  · exact exec_of_violation hready (pushOp_of_full ch b _ s ((isFullNow_iff s ch).2 hfull))
  · exact exec_of_violation hready (popOp_of_empty ch _ s (isEmptyNow_of_eq heq))
  · exact exec_of_violation hready (peekOp_of_empty ch _ s (isEmptyNow_of_eq heq))
  · have hevent : agentEvent a s = .next (((s.violation a code ch).respond a (Reply.faultOf code)).setSeq a none) :=
      agentEvent_of_seq hseq
    rw [hevent, violation_respond]
    rfl
  · exact agentEvent_of_go hseq (if_pos ((fullAt_iff ..).2 hfull))
  · exact agentEvent_of_go hseq (if_pos ((emptyAt_iff ..).2 rfl))
  · exact agentEvent_of_go hseq (if_pos ((emptyAt_iff ..).2 rfl))

/-- Settles O56: a composite that goes on to a `PUSH`, `POP` or `PEEK` holds the room or the data it tested for. -/
theorem noViolationInsideComposite : Obligations.NoViolationInsideComposite := fun _ _ _ hs hrun h hhalted =>
  seq_of_halted hs hrun h hhalted

/-- Settles O57: only `WAIT` stops or parks, and `ISR` is no thread. -/
theorem handlerNeverWaits : Obligations.HandlerNeverWaits := by
  have hthread : ∀ ch, Agent.isr ≠ threadOf ch := fun ch => (threadOf_ne_isr ch).symm
  constructor
  · intro s hs hrun
    obtain ⟨t, h⟩ := agentEvent_next hs hrun hthread
    obtain ⟨hends, -⟩ := agentEvent_ok ((ringInv_iff_base s .isr).1 hs).2 hrun h
    exact ⟨t, h, hends.not_parked hthread⟩
  · intro i s hissuer hready
    obtain ⟨t, h⟩ := complete_of_not_stuck .isr (meaning_isr_not_stuck (hissuer ▸ hready.1) s)
    have hexec : exec i s = .next t := by rw [exec_of_ready hready, hissuer, h]
    exact ⟨t, hexec, hissuer ▸ (exec_performed hexec).not_parked hready.2.1 (hissuer ▸ hthread)⟩

end Sys2Proof.Proofs
end

section
/-! SUPPORT. The run of 70_reset_and_hazards.md R341 in its three parts: the handler reads an empty TX ring, the writer
appends and enables, the handler disables on what it read. -/

namespace Sys2Proof.Machine

/-- Runs compose: `m` steps, then `n`. -/
theorem run_add {M : Host.Core} {m n : Nat} {s t : M.State} (h : M.run m s = .next t) :
    M.run (m + n) s = M.run n t := by
  induction m generalizing s with
  | zero =>
    cases h
    rw [Nat.zero_add]
  | succ m ih =>
    rw [Nat.succ_add, Host.Core.run]
    rw [Host.Core.run] at h
    cases hstep : M.step s with
    | next u =>
      rw [hstep] at h
      exact ih h
    | fault r => simp [hstep] at h
    | refused r => simp [hstep] at h

/-- R341, the start: one byte in the TX ring and `TXIE = 1`. The handler is called for a device that takes the byte,
`WRNB 1` is the writer's next call, and its turn falls between `FC.TXI.2` and `FC.TXI.3` of the handler. -/
def reenableStart : State :=
  { State.reset with
    mode := .parallel
    cap := ⟨16, 16⟩
    storage := ⟨[], [(0, 0x41)]⟩
    widx := ⟨0, 1⟩
    txie := true
    ports := ⟨[⟨encode (.wrnb 1), [0x42]⟩], [], [⟨encode .isr, []⟩], [], []⟩
    sched := List.replicate 19 (.event .isr) ++ .run .txt :: List.replicate 3 (.event .isr)
    dev := ⟨[true, false], [false], [true], [], [true], [⟨false, false⟩]⟩ }

/-- R341 (1): the byte is sent, and the handler is about to disable on `u = 0`. -/
def emptySeen : State :=
  { reenableStart with
    ridx := ⟨0, 1⟩
    run := ⟨.idle, .idle, .busy, .idle, .idle⟩
    seq := ⟨none, none, some ⟨.fcTxi3 0, [.txBurstFc, .isrTxBurst]⟩, none, none⟩
    ports := ⟨[⟨encode (.wrnb 1), [0x42]⟩], [], [], [], []⟩
    issuer := .isr
    sched := .run .txt :: List.replicate 3 (.event .isr)
    dev := ⟨[false], [], [], [], [], []⟩
    trace := [.writeByteNonBlocking 0x41 true, .txReady true, .rxReady false, .checkAndClearErrors ⟨false, false⟩,
      .pollPendingInterrupt true] }

/-- R341 (2): the writer found the ring empty, appended its byte and enabled; the handler still holds `u = 0`. -/
def reenabled : State :=
  { emptySeen with
    storage := ⟨[], [(0, 0x41), (1, 0x42)]⟩
    widx := ⟨0, 2⟩
    snap := ⟨⟨0, 0⟩, ⟨1, 1⟩⟩
    ports := ⟨[], [], [], [], []⟩
    issuer := .txt
    payload := [0x42]
    sched := List.replicate 3 (.event .isr)
    trace := .enableTransmitInterrupt :: emptySeen.trace
    responses := [⟨.txt, (Reply.okVal 1).word, []⟩] }

/-- R341 (3): the handler disabled on its old `u`, raised and returned. -/
def reenableLost : State :=
  { reenabled with
    txie := false
    wake := ⟨.idle, .raised⟩
    run := ⟨.idle, .idle, .idle, .idle, .idle⟩
    seq := ⟨none, none, none, none, none⟩
    sched := []
    dev := ⟨[], [], [], [], [], []⟩
    trace := .pollPendingInterrupt false :: .disableTransmitInterrupt :: reenabled.trace
    responses := ⟨.isr, Reply.ok0.word, []⟩ :: reenabled.responses }

theorem run_reenableStart : core.run 19 reenableStart = .next emptySeen := rfl

theorem run_emptySeen : core.run 1 emptySeen = .next reenabled := rfl

theorem run_reenabled : core.run 3 reenabled = .next reenableLost := rfl

end Sys2Proof.Machine
end

section
/-! PROOFS. The statements of 70_reset_and_hazards.md. -/

namespace Sys2Proof.Proofs

open Sys2Proof Sys2Proof.Machine

/-- Settles O10: R341's run. The handler's disable rests on a level that it read before the writer's enable. -/
theorem parallelModeLosesReenable : Obligations.ParallelModeLosesReenable := by
  have hrun : core.run (19 + (1 + 3)) reenableStart = .next reenableLost := by
    rw [run_add run_reenableStart, run_add run_emptySeen, run_reenabled]
  have hring : ringInv reenableStart = true := by decide
  have hflow : txFlowOk reenableStart = true := by decide
  exact ⟨reenableStart, reenableLost, _, rfl, hring, hflow, rfl, rfl, by decide, by decide, hrun, rfl, rfl, rfl, rfl⟩

end Sys2Proof.Proofs
end
